-- ==== Sys2Proof/Word.lean ====
section
/-! DEFINITION. The word types of the block (spec/00_scope.md R8, R10) and the two plainest readings of a bit. -/

namespace Sys2Proof

/-- A 32-bit register, result or operand (R8, R83). -/
abbrev Word := BitVec 32

/-- One channel's sample: a 16-bit pattern read in two's complement (R8). -/
abbrev Sample := BitVec 16

/-- A command word (R100). -/
abbrev CmdWord := BitVec 64

/-- One byte of a link that carries words as bytes (R85). -/
abbrev Byte := BitVec 8

end Sys2Proof
end

