-- ==== Sys2Proof/Syntax.lean ====
section
/-! DEFINITION. The seventeen commands of spec/opcode_table.json, one constructor per row, with their operands. -/

namespace Sys2Proof

/-- Direction (spec/00_scope.md R12): HV's "Stopped-or-Unknown" is the single value `stopped`. -/
inductive Direction where
  | stopped
  | forward
  | backward
  deriving DecidableEq, Repr

/-- The commands (spec/30_encoding.md R104), in the order of their opcodes. -/
inductive Instr where
  /-- NOP (R313). -/
  | nop
  /-- CFG_WRITE index, value (R310). -/
  | cfgWrite (index : BitVec 8) (value : Word)
  /-- READ index (R311). -/
  | read (index : BitVec 8)
  /-- CONFIGURE (R312). -/
  | configure
  /-- DEC_SAMPLE a, b: channel A is DATA[15:0], channel B is DATA[31:16] (R240). -/
  | decSample (a b : Sample)
  /-- MAP_LOAD pos (R184). -/
  | mapLoad (pos : Word)
  /-- ENC_SAMPLE (R280). -/
  | encSample
  /-- ENC_LOAD pos (R281). -/
  | encLoad (pos : Word)
  /-- TM_LOAD state (R155). -/
  | tmLoad (state : Word)
  /-- TM_ADVANCE (R156). -/
  | tmAdvance
  /-- TM_REVERT (R157). -/
  | tmRevert
  /-- TM_PEEK_NEXT (R158). -/
  | tmPeekNext
  /-- TM_PEEK_PREV (R159). -/
  | tmPeekPrev
  /-- TM_BIT bit, dir (R183); only `forward` and `backward` are well formed (R103). -/
  | tmBit (bit : Bool) (dir : Direction)
  /-- TF_CONFIG A (R133). -/
  | tfConfig (alpha : Word)
  /-- TF_UPDATE x, x a signed 32-bit pattern (R134). -/
  | tfUpdate (x : Word)
  /-- TF_PREVIEW x, x a signed 32-bit pattern (R135). -/
  | tfPreview (x : Word)
  deriving DecidableEq, Repr

end Sys2Proof
end

