-- ==== Sys2Proof/WellFormed.lean ====
section
/-! DEFINITION. Which terms of `Instr` are legal commands. Every operand field takes every value of its width;
the one check of spec/30_encoding.md R103 beyond field widths is TM_BIT's direction code (1 or 2). -/

namespace Sys2Proof

/-- The direction operand of TM_BIT: FORWARD or BACKWARD, never STOPPED (R103, R183). -/
def Direction.steps : Direction → Bool
  | .stopped => false
  | .forward => true
  | .backward => true

/-- A legal command (R103). A bad register index is legal as a command: it fails when executed, with BAD_INDEX. -/
def Instr.wellFormed : Instr → Bool
  | .nop => true
  | .cfgWrite _ _ => true
  | .read _ => true
  | .configure => true
  | .decSample _ _ => true
  | .mapLoad _ => true
  | .encSample => true
  | .encLoad _ => true
  | .tmLoad _ => true
  | .tmAdvance => true
  | .tmRevert => true
  | .tmPeekNext => true
  | .tmPeekPrev => true
  | .tmBit _ dir => dir.steps
  | .tfConfig _ => true
  | .tfUpdate _ => true
  | .tfPreview _ => true

end Sys2Proof
end

