-- ==== Sys2Proof/Decode.lean ====
section
/-! DEFINITION. Decoding of command words, total on every 64-bit word and on any bytes, and the encoder
(spec/30_encoding.md R100 to R106; byte order of a byte link: spec/20_memory.md R85). -/

namespace Sys2Proof

/-- Why a word is no legal command (R103, R106). Whatever the reason, the command fails with ILLEGAL_COMMAND. -/
inductive Illegal where
  /-- OPC is 0x11 to 0xFF. -/
  | reservedOpcode
  /-- RSV is not 0. -/
  | reservedFieldNonzero
  /-- The opcode does not use ARG (or, for TM_BIT, ARG[7:3]) and it is not 0. -/
  | unusedArgNonzero
  /-- The opcode does not use DATA and it is not 0. -/
  | unusedDataNonzero
  /-- TM_BIT with direction code 0 or 3. -/
  | badDirectionCode
  /-- A byte link delivered other than the eight bytes of one command word. -/
  | notOneWord
  deriving DecidableEq, Repr

/-! ## Fields of the CMD format (R100) -/

/-- OPC, bits 7:0. -/
def CmdWord.opc (w : CmdWord) : BitVec 8 := w.extractLsb' 0 8

/-- ARG, bits 15:8. -/
def CmdWord.arg (w : CmdWord) : BitVec 8 := w.extractLsb' 8 8

/-- RSV, bits 31:16. -/
def CmdWord.rsv (w : CmdWord) : BitVec 16 := w.extractLsb' 16 16

/-- DATA, bits 63:32. -/
def CmdWord.data (w : CmdWord) : Word := w.extractLsb' 32 32

/-- A word of the CMD format from its fields, RSV = 0. -/
def CmdWord.make (opc arg : BitVec 8) (data : Word) : CmdWord := data ++ 0#16 ++ arg ++ opc

/-! ## Direction codes (R12) -/

/-- The 2-bit code of a direction. -/
def Direction.code : Direction → BitVec 2
  | .stopped => 0#2
  | .forward => 1#2
  | .backward => 2#2

/-- The direction a 2-bit code names; code 3 is reserved. -/
def Direction.ofCode (c : BitVec 2) : Option Direction :=
  match c with
  | 0#2 => some .stopped
  | 1#2 => some .forward
  | 2#2 => some .backward
  | _ => none

/-! ## Frames (R101, R107) -/

/-- DATA of a frame: channel A in the low half, channel B in the high half. -/
def frameData (a b : Sample) : Word := b ++ a

/-! ## The decoder -/

/-- A command that uses neither ARG nor DATA (R102). -/
def decodeNoOperand (w : CmdWord) (i : Instr) : Except Illegal Instr :=
  if w.arg ≠ 0#8 then .error .unusedArgNonzero
  else if w.data ≠ 0#32 then .error .unusedDataNonzero
  else .ok i

/-- A command that uses DATA only (R102). -/
def decodeDataOnly (w : CmdWord) (i : Instr) : Except Illegal Instr :=
  if w.arg ≠ 0#8 then .error .unusedArgNonzero else .ok i

/-- A command that uses ARG only (R102). -/
def decodeArgOnly (w : CmdWord) (i : Instr) : Except Illegal Instr :=
  if w.data ≠ 0#32 then .error .unusedDataNonzero else .ok i

/-- TM_BIT: ARG[0] is the bit, ARG[2:1] the direction code, which must be 1 or 2, and ARG[7:3] must be 0 (R101, R103). -/
def decodeTmBit (w : CmdWord) : Except Illegal Instr :=
  if w.arg.extractLsb' 3 5 ≠ 0#5 then .error .unusedArgNonzero
  else if w.data ≠ 0#32 then .error .unusedDataNonzero
  else
    match Direction.ofCode (w.arg.extractLsb' 1 2) with
    | some .forward => .ok (.tmBit (w.arg.getLsbD 0) .forward)
    | some .backward => .ok (.tmBit (w.arg.getLsbD 0) .backward)
    | some .stopped => .error .badDirectionCode
    | none => .error .badDirectionCode

/-- The command a 64-bit word stands for, or the reason it is illegal (R103, R104). -/
def decode (w : CmdWord) : Except Illegal Instr :=
  if w.rsv ≠ 0#16 then .error .reservedFieldNonzero
  else
    match w.opc with
    | 0x00#8 => decodeNoOperand w .nop
    | 0x01#8 => .ok (.cfgWrite w.arg w.data)
    | 0x02#8 => decodeArgOnly w (.read w.arg)
    | 0x03#8 => decodeNoOperand w .configure
    | 0x04#8 => decodeDataOnly w (.decSample (w.data.extractLsb' 0 16) (w.data.extractLsb' 16 16))
    | 0x05#8 => decodeDataOnly w (.mapLoad w.data)
    | 0x06#8 => decodeNoOperand w .encSample
    | 0x07#8 => decodeDataOnly w (.encLoad w.data)
    | 0x08#8 => decodeDataOnly w (.tmLoad w.data)
    | 0x09#8 => decodeNoOperand w .tmAdvance
    | 0x0A#8 => decodeNoOperand w .tmRevert
    | 0x0B#8 => decodeNoOperand w .tmPeekNext
    | 0x0C#8 => decodeNoOperand w .tmPeekPrev
    | 0x0D#8 => decodeTmBit w
    | 0x0E#8 => decodeDataOnly w (.tfConfig w.data)
    | 0x0F#8 => decodeDataOnly w (.tfUpdate w.data)
    | 0x10#8 => decodeDataOnly w (.tfPreview w.data)
    | _ => .error .reservedOpcode

/-! ## Words as bytes (R85) -/

/-- The eight bytes of a command word, little-endian: byte k holds bits [8k+7:8k]. -/
def CmdWord.toBytes (w : CmdWord) : List Byte :=
  [w.extractLsb' 0 8, w.extractLsb' 8 8, w.extractLsb' 16 8, w.extractLsb' 24 8,
   w.extractLsb' 32 8, w.extractLsb' 40 8, w.extractLsb' 48 8, w.extractLsb' 56 8]

/-- The four bytes of a register value or result, little-endian: byte k holds bits [8k+7:8k]. -/
def Word.toBytes (v : Word) : List Byte :=
  [v.extractLsb' 0 8, v.extractLsb' 8 8, v.extractLsb' 16 8, v.extractLsb' 24 8]

/-- Decoding of what a byte link delivers: exactly one command word, eight bytes, lowest byte first (R85).
DESIGN CHOICE (log entry 9): any other number of bytes is no command. -/
def decodeBytes (bytes : List Byte) : Except Illegal Instr :=
  match bytes with
  | [b0, b1, b2, b3, b4, b5, b6, b7] => decode (b7 ++ b6 ++ b5 ++ b4 ++ b3 ++ b2 ++ b1 ++ b0)
  | _ => .error .notOneWord

/-! ## The encoder -/

/-- OPC of each command (R104). -/
def Instr.opcode : Instr → BitVec 8
  | .nop => 0x00#8
  | .cfgWrite _ _ => 0x01#8
  | .read _ => 0x02#8
  | .configure => 0x03#8
  | .decSample _ _ => 0x04#8
  | .mapLoad _ => 0x05#8
  | .encSample => 0x06#8
  | .encLoad _ => 0x07#8
  | .tmLoad _ => 0x08#8
  | .tmAdvance => 0x09#8
  | .tmRevert => 0x0A#8
  | .tmPeekNext => 0x0B#8
  | .tmPeekPrev => 0x0C#8
  | .tmBit _ _ => 0x0D#8
  | .tfConfig _ => 0x0E#8
  | .tfUpdate _ => 0x0F#8
  | .tfPreview _ => 0x10#8

/-- ARG of each command (R102): a register index, or TM_BIT's ARG[0] = bit and ARG[2:1] = direction code. -/
def Instr.argField : Instr → BitVec 8
  | .nop => 0#8
  | .cfgWrite index _ => index
  | .read index => index
  | .configure => 0#8
  | .decSample _ _ => 0#8
  | .mapLoad _ => 0#8
  | .encSample => 0#8
  | .encLoad _ => 0#8
  | .tmLoad _ => 0#8
  | .tmAdvance => 0#8
  | .tmRevert => 0#8
  | .tmPeekNext => 0#8
  | .tmPeekPrev => 0#8
  | .tmBit bit dir => 0#5 ++ dir.code ++ BitVec.ofBool bit
  | .tfConfig _ => 0#8
  | .tfUpdate _ => 0#8
  | .tfPreview _ => 0#8

/-- DATA of each command (R102, R107). -/
def Instr.dataField : Instr → Word
  | .nop => 0#32
  | .cfgWrite _ value => value
  | .read _ => 0#32
  | .configure => 0#32
  | .decSample a b => frameData a b
  | .mapLoad pos => pos
  | .encSample => 0#32
  | .encLoad pos => pos
  | .tmLoad state => state
  | .tmAdvance => 0#32
  | .tmRevert => 0#32
  | .tmPeekNext => 0#32
  | .tmPeekPrev => 0#32
  | .tmBit _ _ => 0#32
  | .tfConfig alpha => alpha
  | .tfUpdate x => x
  | .tfPreview x => x

/-- The command word of an instruction (R100, R107). -/
def encode (i : Instr) : CmdWord := CmdWord.make i.opcode i.argField i.dataField

/-! ## The opcode table's match and mask (R105) -/

/-- The mask of the instruction's row: the bits the row fixes. -/
def Instr.rowMask : Instr → CmdWord
  | .nop => 0xFFFFFFFFFFFFFFFF#64
  | .cfgWrite _ _ => 0x00000000FFFF00FF#64
  | .read _ => 0xFFFFFFFFFFFF00FF#64
  | .configure => 0xFFFFFFFFFFFFFFFF#64
  | .decSample _ _ => 0x00000000FFFFFFFF#64
  | .mapLoad _ => 0x00000000FFFFFFFF#64
  | .encSample => 0xFFFFFFFFFFFFFFFF#64
  | .encLoad _ => 0x00000000FFFFFFFF#64
  | .tmLoad _ => 0x00000000FFFFFFFF#64
  | .tmAdvance => 0xFFFFFFFFFFFFFFFF#64
  | .tmRevert => 0xFFFFFFFFFFFFFFFF#64
  | .tmPeekNext => 0xFFFFFFFFFFFFFFFF#64
  | .tmPeekPrev => 0xFFFFFFFFFFFFFFFF#64
  | .tmBit _ _ => 0xFFFFFFFFFFFFF8FF#64
  | .tfConfig _ => 0x00000000FFFFFFFF#64
  | .tfUpdate _ => 0x00000000FFFFFFFF#64
  | .tfPreview _ => 0x00000000FFFFFFFF#64

/-- The match value of the instruction's row. -/
def Instr.rowMatch : Instr → CmdWord
  | .nop => 0x0000000000000000#64
  | .cfgWrite _ _ => 0x0000000000000001#64
  | .read _ => 0x0000000000000002#64
  | .configure => 0x0000000000000003#64
  | .decSample _ _ => 0x0000000000000004#64
  | .mapLoad _ => 0x0000000000000005#64
  | .encSample => 0x0000000000000006#64
  | .encLoad _ => 0x0000000000000007#64
  | .tmLoad _ => 0x0000000000000008#64
  | .tmAdvance => 0x0000000000000009#64
  | .tmRevert => 0x000000000000000A#64
  | .tmPeekNext => 0x000000000000000B#64
  | .tmPeekPrev => 0x000000000000000C#64
  | .tmBit _ _ => 0x000000000000000D#64
  | .tfConfig _ => 0x000000000000000E#64
  | .tfUpdate _ => 0x000000000000000F#64
  | .tfPreview _ => 0x0000000000000010#64

/-! ## The host's entry -/

/-- The instruction the decoder reads from the bits `w` of an `nbits`-bit table row: every bit above `nbits` is 0,
the word's bytes are laid out as a link carries them (R85) and given to the decoder. -/
def decodeTableWord (nbits w : Nat) : Option Instr :=
  match decodeBytes (CmdWord.toBytes (BitVec.ofNat 64 (w % 2 ^ nbits))) with
  | .ok i => some i
  | .error _ => none

end Sys2Proof
end

