-- ==== Sys2Proof/Config.lean ====
section
/-! DEFINITION. What the spec leaves without a value. The format and analysis parameters that HV leaves to the protocol
variant (spec/00_scope.md R9) are registers of the State, not constants here: the host writes them. -/

namespace Sys2Proof

/-- The value of `floor_div a 0`. R11 says floor_div is "used only with a >= 0, b > 0", so the spec gives no quotient
by zero: the value is free (no body, nothing can evaluate it). No command sequence from reset divides by zero, because
CONFIGURE refuses F(c) = 0, SR = 0 and K0 = 0 (R312). Log entry 5. -/
opaque Config.floorDivByZero : Nat → Nat

end Sys2Proof
end

