-- ==== Sys2Proof/Machine/State.lean ====
section
/-! DEFINITION. All state of the block (spec/10_state.md R30 to R48), the input port, the reset state
(spec/70_reset_and_hazards.md R370) and the (empty) reasons to stop. -/

namespace Sys2Proof.Machine

/-- Side (R12, R39): HV's cycle status AboveThreshold / BelowThreshold, UNKNOWN before the first. -/
inductive Side where
  | unknown
  | above
  | below
  deriving DecidableEq, Repr

/-- The codes LAST_ERR takes (spec/60_exceptions.md R340); codes 8 to 15 are never written. -/
inductive ErrCode where
  | ok
  | invalidFormat
  | invalidParameter
  | notConfigured
  | illegalCommand
  | badIndex
  | faulted
  | lfsrZero
  deriving DecidableEq, Repr

/-- The state `(S, INIT)` of one smoothing filter instance (spec/40_smoothing_filter.md R130): `s` is signed. -/
structure FilterState where
  s    : Word
  init : Bool
  deriving DecidableEq, Repr

/-- The sixteen configuration registers at offsets 0x0 to 0xF (R35 to R37), twice in the block: staged and active.
Offset 0x7 is reserved in the staged copy and reads 0 in the active one, so it has no storage. -/
structure ConfigRegs where
  f0          : Word
  f1          : Word
  sr          : Word
  width       : Word
  taps        : Word
  seed        : Word
  valid       : Word
  aBase       : Word
  aPitch      : Word
  hyst        : Word
  bitThr      : Word
  k0          : Word
  k1          : Word
  syncLen     : Word
  stopTimeout : Word
  deriving DecidableEq, Repr

/-- The analysis state of one channel (R39). `base` is (BASE_S, BASE_INIT), `pitch` is (PITCH_S, PITCH_INIT). -/
structure Channel where
  base  : FilterState
  side  : Side
  cnt   : Word
  havex : Bool
  pw    : Word
  pitch : FilterState
  deriving DecidableEq, Repr

/-- Bitstream mapper and deserializer (R40): S, R, RCNT, RDIR. -/
structure Mapper where
  s    : Word
  r    : Word
  rcnt : BitVec 6
  rdir : Direction
  deriving DecidableEq, Repr

/-- Sync status (R41): TRACKING, RUN, LAST_MATCH. -/
structure Sync where
  tracking  : Bool
  run       : BitVec 8
  lastMatch : Bool
  deriving DecidableEq, Repr

/-- One event on the block's inputs: a command word on the command port (spec/20_memory.md R80), or an assertion of
the hardware reset input (R370). -/
inductive PortInput where
  | command (word : CmdWord)
  | reset
  deriving DecidableEq, Repr

/-- The block's state. Every field but `inputs` is architectural (R30 to R46); `inputs` is what the host presents,
oldest first, and a step takes the first (log entry 1). -/
structure State where
  /-- Events presented by the host and not yet taken, oldest first. -/
  inputs     : List PortInput
  /-- CONFIGURED (R32). -/
  configured : Bool
  /-- FAULT, sticky (R32, R344). -/
  fault      : Bool
  /-- LAST_ERR (R32, R340). -/
  lastErr    : ErrCode
  /-- RES0 (R30). -/
  res0       : Word
  /-- RES1 (R30). -/
  res1       : Word
  /-- RES2 (R30). -/
  res2       : Word
  /-- Staged configuration registers (R34). -/
  staged     : ConfigRegs
  /-- Active configuration registers ACT_* (R34). -/
  act        : ConfigRegs
  /-- ENC_SPEED (R38). -/
  encSpeed   : Word
  /-- ENC_DIR (R38). -/
  encDir     : Direction
  /-- ENC_AMP, 15 bits (R35, R38). -/
  encAmp     : BitVec 15
  /-- Channel A, c = 0 (R39). -/
  ch0        : Channel
  /-- Channel B, c = 1 (R39). -/
  ch1        : Channel
  /-- S, R, RCNT, RDIR (R40). -/
  map        : Mapper
  /-- DIR (R41). -/
  dir        : Direction
  /-- TRACKING, RUN, LAST_MATCH (R41). -/
  sync       : Sync
  /-- T, the decoder sample counter (R44). -/
  decT       : Word
  /-- SE (R45). -/
  encSE      : Word
  /-- PH (R45). -/
  encPH      : Word
  /-- TM_S (R46). -/
  tmS        : Word
  /-- (TF_S, TF_INIT) (R46). -/
  tf         : FilterState
  /-- TF_ALPHA (R46). -/
  tfAlpha    : Word
  deriving DecidableEq, Repr

/-- Faults that stop the machine: none. A command that fails reports a code in LAST_ERR and the block goes on
(R342, R343), and there is no trap (R350). The spec's FAULT is the register `State.fault`, not a stop. -/
inductive Fault where
  deriving DecidableEq, Repr

/-- Refusals: only an instruction with no meaning yet. -/
inductive Refusal where
  /-- Raised by an arm of `exec` that has no meaning yet; safe (the model stops). No arm raises it. -/
  | notModelled (mnemonic : String)
  deriving DecidableEq, Repr

/-- A filter that has taken no input. -/
def FilterState.reset : FilterState := ⟨0#32, false⟩

/-- Channel state at reset and after CONFIGURE (R39). -/
def Channel.reset : Channel :=
  { base := .reset, side := .unknown, cnt := 0#32, havex := false, pw := 0#32, pitch := .reset }

/-- Staged registers at reset (R36, R37, R370). -/
def ConfigRegs.stagedReset : ConfigRegs :=
  { f0 := 0#32, f1 := 0#32, sr := 0#32, width := 0#32, taps := 0#32, seed := 0#32, valid := 0#32,
    aBase := 0x00000100#32, aPitch := 0x00001000#32, hyst := 0x00000100#32, bitThr := 0x00010000#32,
    k0 := 0x0000CCCD#32, k1 := 0x00015555#32, syncLen := 0x00000010#32, stopTimeout := 0x00001000#32 }

/-- Active registers at reset (R370). -/
def ConfigRegs.actReset : ConfigRegs :=
  { f0 := 0#32, f1 := 0#32, sr := 0#32, width := 0#32, taps := 0#32, seed := 0#32, valid := 0#32,
    aBase := 0#32, aPitch := 0#32, hyst := 0#32, bitThr := 0#32, k0 := 0#32, k1 := 0#32,
    syncLen := 0#32, stopTimeout := 0#32 }

/-- The block after hardware reset (R370), with nothing presented on its port. -/
def State.reset : State :=
  { inputs := [], configured := false, fault := false, lastErr := .ok,
    res0 := 0#32, res1 := 0#32, res2 := 0#32,
    staged := .stagedReset, act := .actReset,
    encSpeed := 0x00010000#32, encDir := .stopped, encAmp := 16384#15,
    ch0 := .reset, ch1 := .reset,
    map := { s := 0#32, r := 0#32, rcnt := 0#6, rdir := .stopped },
    dir := .stopped, sync := { tracking := false, run := 0#8, lastMatch := false },
    decT := 0#32, encSE := 0#32, encPH := 0#32, tmS := 0#32,
    tf := .reset, tfAlpha := 0x00008000#32 }

end Sys2Proof.Machine
end

