-- ==== Sys2Proof/Machine/Ops.lean ====
section
/-! DEFINITION. The named operations every family shares: the spec's arithmetic primitives (spec/00_scope.md R11), the
end of a command and the raising of an error (spec/60_exceptions.md R340 to R345), the smoothing filter
(spec/40_smoothing_filter.md R130, R131) and the reversible generator (spec/41_lfsr_generator.md R150 to R152). The
block has no memory and no trap entry or return (spec/20_memory.md, R350): raising an error is the whole of both. -/

namespace Sys2Proof.Machine

/-! ## Arithmetic primitives (R11) -/

/-- `trunc_div`: the integer quotient rounded toward zero. -/
def truncDiv (a b : Int) : Int := Int.tdiv a b

/-- `floor_div`, used by the rules with a >= 0 and b > 0; its value for b = 0 is free (log entry 5). -/
def floorDiv (a b : Nat) : Nat := if b = 0 then Config.floorDivByZero a else a / b

/-- `zext_32` of a one-bit value. -/
def bitWord (b : Bool) : Word := if b then 1#32 else 0#32

/-- `mask(W)` = 2^W - 1. -/
def maskW (w : Nat) : Word := BitVec.ofNat 32 (2 ^ w - 1)

/-- The XOR of bits 0 to n-1 of `v`. -/
def parityBelow (v : Word) : Nat → Bool
  | 0 => false
  | n + 1 => v.getLsbD n ^^ parityBelow v n

/-- `parity(v)`: true if `v` has an odd number of 1 bits. -/
def parity (v : Word) : Bool := parityBelow v 32

/-- `v + 1` saturating at the largest value of the register's width. -/
def satInc {n : Nat} (v : BitVec n) : BitVec n := BitVec.ofNat n (min (v.toNat + 1) (2 ^ n - 1))

/-! ## The end of a command -/

/-- `raise Error(code)` in a state: LAST_ERR takes the code, LFSR_ZERO also sets FAULT, and nothing else changes (R342). -/
def raiseError (e : ErrCode) (s : State) : State :=
  { s with lastErr := e, fault := (e == .lfsrZero) || s.fault }

/-- A command that completed: LAST_ERR <- OK (R343). -/
def succeed (s : State) : State := { s with lastErr := .ok }

/-- All or nothing (R342): either every write of the command and LAST_ERR <- OK, or only the error's report. `s` is the
state the command began in, `r` what its rule computed. -/
def commit (s : State) (r : Except ErrCode State) : Host.Outcome State Fault Refusal :=
  match r with
  | .ok t => .next (succeed t)
  | .error e => .next (raiseError e s)

/-- The two requirements every session and generator command opens with: CONFIGURED = 1, then FAULT = 0 (R341, R344, R345). -/
def gated (s : State) (body : Except ErrCode State) : Except ErrCode State :=
  if s.configured then (if s.fault then .error .faulted else body) else .error .notConfigured

/-- A position or state operand must lie in [1, 2^W - 1] (R340, code 2). -/
def positionLegal (p : ConfigRegs) (v : Word) : Bool :=
  decide (1 ≤ v.toNat) && decide (v.toNat < 2 ^ p.width.toNat)

/-! ## The smoothing filter -/

/-- FilterStep((S, INIT), x, A) (R130). -/
def filterStep (f : FilterState) (x : Int) (a : Nat) : FilterState :=
  if f.init then
    { s := BitVec.ofInt 32 (x + truncDiv ((65536 - (a : Int)) * (f.s.toInt - x)) 65536), init := true }
  else
    { s := BitVec.ofInt 32 x, init := true }

/-- FilterPreview((S, INIT), x, A): FilterStep's S' with nothing written (R131). -/
def filterPreview (f : FilterState) (x : Int) (a : Nat) : Word := (filterStep f x a).s

/-- A smoothing factor is legal when 1 <= A <= 65536 (R132). -/
def factorLegal (a : Word) : Bool := decide (1 ≤ a.toNat) && decide (a.toNat ≤ 65536)

/-! ## The reversible generator -/

/-- What Advance and Revert return: the new state, the recomputed bit (f or g) and the bit shifted out. -/
structure GenStep where
  next : Word
  fb   : Bool
  out  : Bool
  deriving DecidableEq, Repr

/-- The feedback bit of a state: parity(S & TAPS) (R150, R283). -/
def feedback (p : ConfigRegs) (s : Word) : Bool := parity (s &&& p.taps)

/-- The tap mask of Revert: (TAPS >> 1) | (1 << (W - 1)) (R151). -/
def revertTaps (p : ConfigRegs) : Word := (p.taps >>> 1) ||| (1#32 <<< (p.width.toNat - 1))

/-- Advance(S) (R150, R152). -/
def advance (p : ConfigRegs) (s : Word) : Except ErrCode GenStep :=
  if s = 0#32 then .error .lfsrZero
  else
    .ok { next := (s >>> 1) ||| (bitWord (feedback p s) <<< (p.width.toNat - 1)),
          fb := feedback p s,
          out := s.getLsbD 0 }

/-- Revert(S), the exact inverse of Advance (R151, R152). -/
def revert (p : ConfigRegs) (s : Word) : Except ErrCode GenStep :=
  if s = 0#32 then .error .lfsrZero
  else
    .ok { next := ((s <<< 1) &&& maskW p.width.toNat) ||| bitWord (parity (s &&& revertTaps p)),
          fb := parity (s &&& revertTaps p),
          out := s.getLsbD (p.width.toNat - 1) }

/-- Revert^n (R244). -/
def revertTimes (p : ConfigRegs) : Nat → Word → Except ErrCode Word
  | 0, s => .ok s
  | n + 1, s =>
    match revert p s with
    | .ok g => revertTimes p n g.next
    | .error e => .error e

/-! ## The bitstream mapper -/

/-- `is_valid(S)`: S < VALID (R181). -/
def isValid (p : ConfigRegs) (s : Word) : Bool := decide (s.toNat < p.valid.toNat)

/-- MapperStep(S, b, d) for d FORWARD or BACKWARD (R182): the new state and MATCH. STOPPED is no operand of it; every
caller excludes it first, and it is answered as the illegal command R183 makes of it. -/
def mapperStep (p : ConfigRegs) (s : Word) (b : Bool) (d : Direction) : Except ErrCode (Word × Bool) :=
  match d with
  | .forward =>
    match advance p s with
    | .ok g => .ok (g.next, b == g.fb)
    | .error e => .error e
  | .backward =>
    match revert p s with
    | .ok g => .ok (g.next, b == s.getLsbD (p.width.toNat - 1))
    | .error e => .error e
  | .stopped => .error .illegalCommand

end Sys2Proof.Machine
end

