-- ==== Sys2Proof/Machine/Flags.lean ====
section
/-! DEFINITION. Every word the block assembles from flags: STATUS (spec/10_state.md R33), DES_CTRL, DEC_RUN, CH_FLAGS and
TF_FLAGS (R35), and the RES1 words of DEC_SAMPLE (spec/44_decoder.md R246), TM_BIT (R183), MAP_LOAD (R184) and ENC_SAMPLE
(R280). Concatenations list the highest field first, as the tables' bit numbers read downward. -/

namespace Sys2Proof.Machine

/-- The 4-bit code of an error (R340). -/
def ErrCode.code : ErrCode → BitVec 4
  | .ok => 0#4
  | .invalidFormat => 1#4
  | .invalidParameter => 2#4
  | .notConfigured => 3#4
  | .illegalCommand => 4#4
  | .badIndex => 5#4
  | .faulted => 6#4
  | .lfsrZero => 7#4

/-- The 2-bit code of a side (R12). -/
def Side.code : Side → BitVec 2
  | .unknown => 0#2
  | .above => 1#2
  | .below => 2#2

/-- STATUS.VALID: CONFIGURED = 1 and S < ACT_VALID (R33, R42). -/
def statusValid (s : State) : Bool := s.configured && isValid s.act s.map.s

/-- STATUS (R33): [31:12] 0, [11:8] LAST_ERR, [7] 0, [6] FAULT, [5] LAST_MATCH, [4] VALID, [3:2] DIR, [1] TRACKING, [0] CONFIGURED. -/
def statusWord (s : State) : Word :=
  0#20 ++ s.lastErr.code ++ 0#1 ++ BitVec.ofBool s.fault ++ BitVec.ofBool s.sync.lastMatch
    ++ BitVec.ofBool (statusValid s) ++ s.dir.code ++ BitVec.ofBool s.sync.tracking ++ BitVec.ofBool s.configured

/-- SPEED: floor of the mean of the two pitch states, Q16.16 (R42). -/
def speed (c0 c1 : Channel) : Word := BitVec.ofInt 32 ((c0.pitch.s.toInt + c1.pitch.s.toInt) / 2)

/-- DES_CTRL (R35): [9:8] RDIR, [7:6] 0, [5:0] RCNT. -/
def desCtrlWord (m : Mapper) : Word := 0#22 ++ m.rdir.code ++ 0#2 ++ m.rcnt

/-- DEC_RUN (R35): [7:0] RUN. -/
def decRunWord (y : Sync) : Word := 0#24 ++ y.run

/-- CH_FLAGS (R35): [4] HAVEX, [3:2] SIDE, [1] PITCH_INIT, [0] BASE_INIT. -/
def chFlagsWord (c : Channel) : Word :=
  0#27 ++ BitVec.ofBool c.havex ++ c.side.code ++ BitVec.ofBool c.pitch.init ++ BitVec.ofBool c.base.init

/-- TF_FLAGS (R35): [0] TF_INIT. -/
def tfFlagsWord (f : FilterState) : Word := 0#31 ++ BitVec.ofBool f.init

/-- RES1 of TM_BIT (R183): [1] validity of the new state, [0] MATCH. -/
def matchWord (isMatch valid : Bool) : Word := bitWord isMatch ||| (bitWord valid <<< 1)

/-- RES1 of ENC_SAMPLE (R280): [1] crossed, [0] the bit emitted. -/
def encWord (b crossed : Bool) : Word := bitWord b ||| (bitWord crossed <<< 1)

/-- The per-sample flags of one channel that DEC_SAMPLE reports (R246): XING, HASBIT, BIT, highest first. -/
def xingBits (xing hasBit bit : Bool) : BitVec 3 := BitVec.ofBool bit ++ BitVec.ofBool hasBit ++ BitVec.ofBool xing

/-- RES1 of DEC_SAMPLE (R246): [12] RELOADED, [11] MATCH, [10] STEPPED, [9] VALID, [8] TRACKING, [7:6] DIR, [5:3] channel B, [2:0] channel A. -/
def decResultWord (chA chB : BitVec 3) (dir : Direction) (tracking valid stepped isMatch reloaded : Bool) : Word :=
  0#19 ++ BitVec.ofBool reloaded ++ BitVec.ofBool isMatch ++ BitVec.ofBool stepped ++ BitVec.ofBool valid
    ++ BitVec.ofBool tracking ++ dir.code ++ chB ++ chA

end Sys2Proof.Machine
end

