-- ==== Sys2Proof/Machine/Operands.lean ====
section
/-! DEFINITION. The operand forms: signed and unsigned readings of DATA (spec/30_encoding.md R101), and the 8-bit register
index space of READ and CFG_WRITE (spec/10_state.md R35). -/

namespace Sys2Proof.Machine

/-- One configuration register, staged or active (R36, R37). -/
inductive CfgReg where
  | f0
  | f1
  | sr
  | width
  | taps
  | seed
  | valid
  | aBase
  | aPitch
  | hyst
  | bitThr
  | k0
  | k1
  | syncLen
  | stopTimeout
  deriving DecidableEq, Repr

/-- One register of a channel's block at 0x30 + 8c (R35). -/
inductive ChanReg where
  | baseS
  | flags
  | cnt
  | pw
  | pitchS
  deriving DecidableEq, Repr

/-- A register that an index names (R35). -/
inductive Reg where
  | staged (r : CfgReg)
  | encSpeed
  | encDir
  | encAmp
  | status
  | decPos
  | decSpeed
  | decT
  | desR
  | desCtrl
  | decRun
  | chan0 (r : ChanReg)
  | chan1 (r : ChanReg)
  | act (r : CfgReg)
  | act07
  | encSE
  | encPH
  | tmS
  | tfS
  | tfFlags
  | tfAlpha
  deriving DecidableEq, Repr

/-- x = sext_32(DATA) (R101). -/
def signedData (d : Word) : Int := d.toInt

/-- The configuration register at an offset 0x0 to 0xF; offset 0x7 is none (R35). -/
def CfgReg.ofOffset (i : BitVec 4) : Option CfgReg :=
  match i with
  | 0x0#4 => some .f0
  | 0x1#4 => some .f1
  | 0x2#4 => some .sr
  | 0x3#4 => some .width
  | 0x4#4 => some .taps
  | 0x5#4 => some .seed
  | 0x6#4 => some .valid
  | 0x7#4 => none
  | 0x8#4 => some .aBase
  | 0x9#4 => some .aPitch
  | 0xA#4 => some .hyst
  | 0xB#4 => some .bitThr
  | 0xC#4 => some .k0
  | 0xD#4 => some .k1
  | 0xE#4 => some .syncLen
  | 0xF#4 => some .stopTimeout
  | _ => none

/-- The register of a channel at an offset 0 to 7 of its block; 5, 6 and 7 are reserved (R35). -/
def ChanReg.ofOffset (k : BitVec 3) : Option ChanReg :=
  match k with
  | 0#3 => some .baseS
  | 1#3 => some .flags
  | 2#3 => some .cnt
  | 3#3 => some .pw
  | 4#3 => some .pitchS
  | _ => none

/-- Indices 0x10 to 0x1F: the encoder's live controls (R35, R38). -/
def liveReg (lo : BitVec 4) : Option Reg :=
  match lo with
  | 0x0#4 => some .encSpeed
  | 0x1#4 => some .encDir
  | 0x2#4 => some .encAmp
  | _ => none

/-- Indices 0x20 to 0x2F: STATUS and the decoder (R35). -/
def decoderReg (lo : BitVec 4) : Option Reg :=
  match lo with
  | 0x0#4 => some .status
  | 0x1#4 => some .decPos
  | 0x2#4 => some .decSpeed
  | 0x3#4 => some .decT
  | 0x4#4 => some .desR
  | 0x5#4 => some .desCtrl
  | 0x6#4 => some .decRun
  | _ => none

/-- Indices 0x30 to 0x3F: 0x30 + 8c + k (R35). -/
def channelReg (lo : BitVec 4) : Option Reg :=
  if lo.getLsbD 3 then (ChanReg.ofOffset (lo.extractLsb' 0 3)).map .chan1
  else (ChanReg.ofOffset (lo.extractLsb' 0 3)).map .chan0

/-- Indices 0x40 to 0x4F: the active copies; 0x47 is ACT_07, which reads 0 (R35). -/
def activeReg (lo : BitVec 4) : Option Reg :=
  match CfgReg.ofOffset lo with
  | some r => some (.act r)
  | none => some .act07

/-- Indices 0x50 to 0x5F: the encoder and the test units (R35). -/
def unitReg (lo : BitVec 4) : Option Reg :=
  match lo with
  | 0x0#4 => some .encSE
  | 0x1#4 => some .encPH
  | 0x8#4 => some .tmS
  | 0x9#4 => some .tfS
  | 0xA#4 => some .tfFlags
  | 0xB#4 => some .tfAlpha
  | _ => none

/-- The register an index names; none for a reserved index (R35). -/
def Reg.ofIndex (i : BitVec 8) : Option Reg :=
  match i.extractLsb' 4 4 with
  | 0x0#4 => (CfgReg.ofOffset (i.extractLsb' 0 4)).map .staged
  | 0x1#4 => liveReg (i.extractLsb' 0 4)
  | 0x2#4 => decoderReg (i.extractLsb' 0 4)
  | 0x3#4 => channelReg (i.extractLsb' 0 4)
  | 0x4#4 => activeReg (i.extractLsb' 0 4)
  | 0x5#4 => unitReg (i.extractLsb' 0 4)
  | _ => none

/-- The value of a configuration register. -/
def ConfigRegs.get (p : ConfigRegs) : CfgReg → Word
  | .f0 => p.f0
  | .f1 => p.f1
  | .sr => p.sr
  | .width => p.width
  | .taps => p.taps
  | .seed => p.seed
  | .valid => p.valid
  | .aBase => p.aBase
  | .aPitch => p.aPitch
  | .hyst => p.hyst
  | .bitThr => p.bitThr
  | .k0 => p.k0
  | .k1 => p.k1
  | .syncLen => p.syncLen
  | .stopTimeout => p.stopTimeout

/-- A configuration register written with all 32 bits (R34). -/
def ConfigRegs.set (p : ConfigRegs) (r : CfgReg) (v : Word) : ConfigRegs :=
  match r with
  | .f0 => { p with f0 := v }
  | .f1 => { p with f1 := v }
  | .sr => { p with sr := v }
  | .width => { p with width := v }
  | .taps => { p with taps := v }
  | .seed => { p with seed := v }
  | .valid => { p with valid := v }
  | .aBase => { p with aBase := v }
  | .aPitch => { p with aPitch := v }
  | .hyst => { p with hyst := v }
  | .bitThr => { p with bitThr := v }
  | .k0 => { p with k0 := v }
  | .k1 => { p with k1 := v }
  | .syncLen => { p with syncLen := v }
  | .stopTimeout => { p with stopTimeout := v }

/-- The value of a channel register (R35, R39). -/
def Channel.get (c : Channel) : ChanReg → Word
  | .baseS => c.base.s
  | .flags => chFlagsWord c
  | .cnt => c.cnt
  | .pw => c.pw
  | .pitchS => c.pitch.s

/-- The 32-bit value READ returns for a register (R35, R311); it depends on the state only. -/
def readReg (s : State) : Reg → Word
  | .staged r => s.staged.get r
  | .encSpeed => s.encSpeed
  | .encDir => s.encDir.code.setWidth 32
  | .encAmp => s.encAmp.setWidth 32
  | .status => statusWord s
  | .decPos => s.map.s
  | .decSpeed => speed s.ch0 s.ch1
  | .decT => s.decT
  | .desR => s.map.r
  | .desCtrl => desCtrlWord s.map
  | .decRun => decRunWord s.sync
  | .chan0 r => s.ch0.get r
  | .chan1 r => s.ch1.get r
  | .act r => s.act.get r
  | .act07 => 0#32
  | .encSE => s.encSE
  | .encPH => s.encPH
  | .tmS => s.tmS
  | .tfS => s.tf.s
  | .tfFlags => tfFlagsWord s.tf
  | .tfAlpha => s.tfAlpha

/-- ENC_DIR's legalisation: v if v is in {0, 1, 2}, else STOPPED (R38, R310). -/
def legalDirection (v : Word) : Direction :=
  if v = 1#32 then .forward else if v = 2#32 then .backward else .stopped

/-- ENC_AMP's legalisation: min(v, 32767) (R38, R310). -/
def legalAmplitude (v : Word) : BitVec 15 := BitVec.ofNat 15 (min v.toNat 32767)

/-- A write of a register by CFG_WRITE; only the staged registers and the encoder's live controls are writable, every
other register is read-only (R35, R310). -/
def writeReg (s : State) (r : Reg) (v : Word) : Except ErrCode State :=
  match r with
  | .staged c => .ok { s with staged := s.staged.set c v }
  | .encSpeed => .ok { s with encSpeed := v }
  | .encDir => .ok { s with encDir := legalDirection v }
  | .encAmp => .ok { s with encAmp := legalAmplitude v }
  | .status => .error .badIndex
  | .decPos => .error .badIndex
  | .decSpeed => .error .badIndex
  | .decT => .error .badIndex
  | .desR => .error .badIndex
  | .desCtrl => .error .badIndex
  | .decRun => .error .badIndex
  | .chan0 _ => .error .badIndex
  | .chan1 _ => .error .badIndex
  | .act _ => .error .badIndex
  | .act07 => .error .badIndex
  | .encSE => .error .badIndex
  | .encPH => .error .badIndex
  | .tmS => .error .badIndex
  | .tfS => .error .badIndex
  | .tfFlags => .error .badIndex
  | .tfAlpha => .error .badIndex

end Sys2Proof.Machine
end

