-- ==== Sys2Proof/Machine/Control.lean ====
section
/-! DEFINITION. The control commands NOP, CFG_WRITE, READ and CONFIGURE (spec/46_control.md R310 to R313), and what an
illegal command word does (spec/30_encoding.md R103). -/

namespace Sys2Proof.Machine

/-- An illegal command word: ILLEGAL_COMMAND and no other effect (R103, R106). -/
def illegalCommand (s : State) : Host.Outcome State Fault Refusal := commit s (.error .illegalCommand)

/-- NOP (R313). -/
def execNop (s : State) : Host.Outcome State Fault Refusal := commit s (.ok s)

/-- CFG_WRITE (R310). -/
def execCfgWrite (index : BitVec 8) (value : Word) (s : State) : Host.Outcome State Fault Refusal :=
  commit s
    (match Reg.ofIndex index with
     | some r => writeReg s r value
     | none => .error .badIndex)

/-- READ (R311): the value is sampled before LAST_ERR is written. -/
def execRead (index : BitVec 8) (s : State) : Host.Outcome State Fault Refusal :=
  commit s
    (match Reg.ofIndex index with
     | some r => .ok { s with res0 := readReg s r }
     | none => .error .badIndex)

/-! ## CONFIGURE (R312) -/

/-- The first format line: SR >= 1, F0 >= 1, 2*F0 <= SR, F1 >= 1, 2*F1 <= SR. -/
def rateLegal (c : ConfigRegs) : Bool :=
  decide (1 ≤ c.sr.toNat ∧ 1 ≤ c.f0.toNat ∧ 2 * c.f0.toNat ≤ c.sr.toNat ∧ 1 ≤ c.f1.toNat ∧ 2 * c.f1.toNat ≤ c.sr.toNat)

/-- 1 <= W <= 32. -/
def widthLegal (c : ConfigRegs) : Bool := decide (1 ≤ c.width.toNat ∧ c.width.toNat ≤ 32)

/-- TAPS < 2^W and TAPS[0] = 1, 1 <= SEED < 2^W, VALID <= 2^W - 1. -/
def sequenceLegal (c : ConfigRegs) : Bool :=
  decide (c.taps.toNat < 2 ^ c.width.toNat ∧ c.taps.getLsbD 0 = true ∧ 1 ≤ c.seed.toNat ∧ c.seed.toNat < 2 ^ c.width.toNat ∧
    c.valid.toNat ≤ 2 ^ c.width.toNat - 1)

/-- The analysis parameter checks. -/
def paramsLegal (c : ConfigRegs) : Bool :=
  factorLegal c.aBase && factorLegal c.aPitch && decide (c.hyst.toNat ≤ 65535) &&
    decide (1 ≤ c.k0.toNat ∧ c.k0.toNat < c.k1.toNat) && decide (1 ≤ c.syncLen.toNat ∧ c.syncLen.toNat ≤ 255) &&
    decide (1 ≤ c.stopTimeout.toNat)

/-- The first check that fails, in the order of R312: every format check before any parameter check. -/
def configError (c : ConfigRegs) : Option ErrCode :=
  if !rateLegal c then some .invalidFormat
  else if !widthLegal c then some .invalidFormat
  else if !sequenceLegal c then some .invalidFormat
  else if !paramsLegal c then some .invalidParameter
  else none

/-- The state a successful CONFIGURE leaves: the staged set active, the decoder and encoder sessions and the test
generator fresh (R312). -/
def configureDone (s : State) : State :=
  { s with
    act := s.staged
    configured := true
    fault := false
    ch0 := .reset
    ch1 := .reset
    map := { s := s.staged.seed, r := 0#32, rcnt := 0#6, rdir := .stopped }
    dir := .stopped
    sync := { tracking := false, run := 0#8, lastMatch := false }
    decT := 0#32
    encSE := s.staged.seed
    encPH := 0#32
    tmS := s.staged.seed
    res0 := 0#32 }

/-- CONFIGURE (R312). A failure also writes CONFIGURED <- 0, the one exception to R342. -/
def execConfigure (s : State) : Host.Outcome State Fault Refusal :=
  match configError s.staged with
  | some e => commit { s with configured := false } (.error e)
  | none => commit s (.ok (configureDone s))

end Sys2Proof.Machine
end

