-- ==== Sys2Proof/Machine/Channel.lean ====
section
/-! DEFINITION. ChannelStep, the per-channel part of DEC_SAMPLE (spec/43_channel_analysis.md R200 to R213). -/

namespace Sys2Proof.Machine

/-- What ChannelStep leaves: the channel's new state and the transient values of R200. -/
structure ChannelOut where
  ch      : Channel
  xing    : Bool
  hasBit  : Bool
  bit     : Bool
  hadx    : Bool
  agePrev : Word
  deriving DecidableEq, Repr

/-- x = sext_16(s) * 2^16 (R201). -/
def scaledSample (s : Sample) : Int := s.toInt * 2 ^ 16

/-- The upper threshold BASE_S + HYST * 2^16, never wrapped (R204). -/
def upperThreshold (p : ConfigRegs) (base : Word) : Int := base.toInt + (p.hyst.toNat : Int) * 2 ^ 16

/-- The lower threshold BASE_S - HYST * 2^16, never wrapped (R204). -/
def lowerThreshold (p : ConfigRegs) (base : Word) : Int := base.toInt - (p.hyst.toNat : Int) * 2 ^ 16

/-- newside (R205): both comparisons strict; inside the band or on its edge the side is kept. -/
def newSide (p : ConfigRegs) (base : Word) (x : Int) (old : Side) : Side :=
  if x > upperThreshold p base then .above
  else if x < lowerThreshold p base then .below
  else old

/-- XING (R206): from ABOVE or BELOW to the other one; leaving UNKNOWN is no crossing. -/
def crossing (old new : Side) : Bool := decide (old ≠ .unknown) && decide (new ≠ old)

/-- The speed reference of the bit decision (R209). -/
def speedRef (pitch : FilterState) : Int :=
  if pitch.init && decide (pitch.s ≠ 0#32) then pitch.s.toInt else 65536

/-- BIT (R209): 1 for a long pulse; equality gives 0. `f` is F(c), `w` the pulse width. -/
def bitDecision (p : ConfigRegs) (f w : Nat) (ref : Int) : Bool :=
  decide ((w : Int) * 2 * f * ref > (p.bitThr.toNat : Int) * p.sr.toNat)

/-- The pitch input r (R210). -/
def pitchInput (p : ConfigRegs) (f w : Nat) : Nat :=
  min (floorDiv (p.sr.toNat * 2 ^ 16) (2 * f * w)) (2 ^ 31 - 1)

/-- A crossing with a previous one: pulse width, bit and pitch update (R208 to R211), then the bookkeeping (R213).
`c` has its counter, baseline and side of this sample already. -/
def crossAgain (p : ConfigRegs) (f : Nat) (c : Channel) : ChannelOut :=
  { ch := { c with
      pw := c.cnt
      pitch := filterStep c.pitch (pitchInput p f c.cnt.toNat) p.aPitch.toNat
      havex := true
      cnt := 0#32 }
    xing := true
    hasBit := true
    bit := bitDecision p f c.cnt.toNat (speedRef c.pitch)
    hadx := true
    agePrev := c.cnt }

/-- The first crossing: no width, no bit, no pitch input (R207), then the bookkeeping (R213). -/
def crossFirst (c : Channel) : ChannelOut :=
  { ch := { c with havex := true, cnt := 0#32 }
    xing := true
    hasBit := false
    bit := false
    hadx := false
    agePrev := c.cnt }

/-- A sample with no crossing: once CNT has reached STOP_TIMEOUT the pitch takes input 0 (R212). -/
def noCross (p : ConfigRegs) (c : Channel) : ChannelOut :=
  { ch := if p.stopTimeout.toNat ≤ c.cnt.toNat then { c with pitch := filterStep c.pitch 0 p.aPitch.toNat } else c
    xing := false
    hasBit := false
    bit := false
    hadx := c.havex
    agePrev := 0#32 }

/-- The baseline filter's update by one sample (R203). -/
def baseStep (p : ConfigRegs) (c : Channel) (s : Sample) : FilterState :=
  filterStep c.base (scaledSample s) p.aBase.toNat

/-- The side after a sample, compared with the updated baseline (R203, R205). -/
def sideStep (p : ConfigRegs) (c : Channel) (s : Sample) : Side :=
  newSide p (baseStep p c s).s (scaledSample s) c.side

/-- The channel after the counter, baseline and side of R200 and before its crossing is treated. -/
def preCross (p : ConfigRegs) (c : Channel) (s : Sample) : Channel :=
  { c with cnt := satInc c.cnt, base := baseStep p c s, side := sideStep p c s }

/-- ChannelStep(c, s) (R200); `f` is F(c). -/
def channelStep (p : ConfigRegs) (f : Nat) (c : Channel) (s : Sample) : ChannelOut :=
  if crossing c.side (sideStep p c s) then
    (if c.havex then crossAgain p f (preCross p c s) else crossFirst (preCross p c s))
  else noCross p (preCross p c s)

end Sys2Proof.Machine
end

