-- ==== Sys2Proof/Machine/Decoder.lean ====
section
/-! DEFINITION. DEC_SAMPLE and the decoder stages it runs after the two channel steps: phase analyzer, mapper feed with
the deserializer window, sync status (spec/44_decoder.md R240 to R246). -/

namespace Sys2Proof.Machine

/-! ## Phase analyzer (R241 to R243) -/

/-- Reliable(c, o) (R242): c had crossed before, o has crossed, has a side, and crossed after c's previous crossing. -/
def reliable (c o : ChannelOut) : Bool :=
  c.hadx && o.ch.havex && decide (o.ch.side ≠ .unknown) && decide (o.ch.cnt.toNat < c.agePrev.toNat)

/-- The direction from a crossing of channel A alone: A leads when B is on the other side (R241). -/
def dirFromA (a b : ChannelOut) : Direction :=
  if reliable a b then (if b.ch.side ≠ a.ch.side then .forward else .backward) else .stopped

/-- The direction from a crossing of channel B alone: B leads when A is on the other side (R241). -/
def dirFromB (a b : ChannelOut) : Direction :=
  if reliable b a then (if a.ch.side ≠ b.ch.side then .backward else .forward) else .stopped

/-- DIR on a frame with no crossing: STOPPED once both counters have reached STOP_TIMEOUT, else kept (R241, R243). -/
def dirIdle (p : ConfigRegs) (old : Direction) (a b : ChannelOut) : Direction :=
  if p.stopTimeout.toNat ≤ a.ch.cnt.toNat ∧ p.stopTimeout.toNat ≤ b.ch.cnt.toNat then .stopped else old

/-- PhaseStep: DIR after the frame (R241). -/
def phaseStep (p : ConfigRegs) (old : Direction) (a b : ChannelOut) : Direction :=
  match a.xing, b.xing with
  | true, true => .stopped
  | true, false => dirFromA a b
  | false, true => dirFromB a b
  | false, false => dirIdle p old a b

/-! ## Mapper feed and deserializer (R244) -/

/-- What MapperFeed returns: the new mapper registers and (FED, STEPPED, MATCH, RELOADED). -/
structure FeedOut where
  map      : Mapper
  fed      : Bool
  stepped  : Bool
  isMatch  : Bool
  reloaded : Bool
  deriving DecidableEq, Repr

/-- RCNT before this bit: 0 when the window restarts on a reversal (R244). -/
def windowCount (m : Mapper) (dir : Direction) : Nat := if m.rdir = dir then m.rcnt.toNat else 0

/-- RCNT after this bit: min(RCNT + 1, W) (R244). -/
def nextCount (p : ConfigRegs) (m : Mapper) (dir : Direction) : Nat := min (windowCount m dir + 1) p.width.toNat

/-- The window R after this bit, read forward (R244). -/
def shiftInForward (p : ConfigRegs) (r : Word) (b : Bool) : Word := (r >>> 1) ||| (bitWord b <<< (p.width.toNat - 1))

/-- The window R after this bit, read backward (R244). -/
def shiftInBackward (p : ConfigRegs) (r : Word) (b : Bool) : Word := ((r <<< 1) &&& maskW p.width.toNat) ||| bitWord b

/-- The window R after this bit (R244); `dir` is FORWARD or BACKWARD. -/
def shiftIn (p : ConfigRegs) (dir : Direction) (r : Word) (b : Bool) : Word :=
  match dir with
  | .forward => shiftInForward p r b
  | .backward => shiftInBackward p r b
  | .stopped => r

/-- The state a full window stands for: R itself read forward, W reverts of it read backward (R244). -/
def windowState (p : ConfigRegs) (dir : Direction) (r : Word) : Except ErrCode Word :=
  match dir with
  | .forward => .ok r
  | .backward => revertTimes p p.width.toNat r
  | .stopped => .ok r

/-- When S is reloaded: a mismatch while UNSYNCED with a full window that is not zero (R244). -/
def reloads (isMatch tracking full : Bool) (r : Word) : Bool := !isMatch && !tracking && full && decide (r ≠ 0#32)

/-- MapperFeed for a decided bit in a direction other than STOPPED (R244). -/
def feedBit (p : ConfigRegs) (m : Mapper) (tracking : Bool) (dir : Direction) (b : Bool) : Except ErrCode FeedOut :=
  match mapperStep p m.s b dir with
  | .error e => .error e
  | .ok (s2, isMatch) =>
    if reloads isMatch tracking (decide (nextCount p m dir = p.width.toNat)) (shiftIn p dir m.r b) then
      match windowState p dir (shiftIn p dir m.r b) with
      | .error e => .error e
      | .ok s3 =>
        .ok { map := { s := s3, r := shiftIn p dir m.r b, rcnt := BitVec.ofNat 6 (nextCount p m dir), rdir := dir },
              fed := true, stepped := true, isMatch := isMatch, reloaded := true }
    else
      .ok { map := { s := s2, r := shiftIn p dir m.r b, rcnt := BitVec.ofNat 6 (nextCount p m dir), rdir := dir },
            fed := true, stepped := true, isMatch := isMatch, reloaded := false }

/-- MapperFeed (R244): only channel A's bits feed the mapper, and none is stepped while DIR is STOPPED. -/
def mapperFeed (p : ConfigRegs) (m : Mapper) (tracking : Bool) (dir : Direction) (a : ChannelOut) : Except ErrCode FeedOut :=
  if a.xing && a.hasBit then
    match dir with
    | .stopped =>
      .ok { map := { m with rcnt := 0#6, rdir := .stopped },
            fed := true, stepped := false, isMatch := false, reloaded := false }
    | .forward => feedBit p m tracking .forward a.bit
    | .backward => feedBit p m tracking .backward a.bit
  else
    .ok { map := m, fed := false, stepped := false, isMatch := false, reloaded := false }

/-! ## Sync status (R245) -/

/-- SyncUpdate(MATCH), with S the position after the feed (R245). -/
def syncUpdate (p : ConfigRegs) (y : Sync) (s : Word) (isMatch : Bool) : Sync :=
  if isMatch && isValid p s then
    { run := satInc y.run
      tracking := decide (p.syncLen.toNat ≤ (satInc y.run).toNat) || y.tracking
      lastMatch := isMatch }
  else
    { run := 0#8, tracking := false, lastMatch := isMatch }

/-- The sync status after a frame: updated only when the mapper was fed (R240, R245). -/
def syncStep (p : ConfigRegs) (y : Sync) (f : FeedOut) : Sync :=
  if f.fed then syncUpdate p y f.map.s f.isMatch else y

/-! ## DEC_SAMPLE (R240) -/

/-- Channel A's step on a frame (R200, R240). -/
def stepA (s : State) (a : Sample) : ChannelOut := channelStep s.act s.act.f0.toNat s.ch0 a

/-- Channel B's step on a frame (R200, R240). -/
def stepB (s : State) (b : Sample) : ChannelOut := channelStep s.act s.act.f1.toNat s.ch1 b

/-- DIR after a frame. -/
def frameDir (s : State) (a b : Sample) : Direction := phaseStep s.act s.dir (stepA s a) (stepB s b)

/-- MapperFeed on a frame; TRACKING is its value before the frame (R244). -/
def frameFeed (s : State) (a b : Sample) : Except ErrCode FeedOut :=
  mapperFeed s.act s.map s.sync.tracking (frameDir s a b) (stepA s a)

/-- RES1 of a frame (R246). -/
def frameResult (p : ConfigRegs) (oa ob : ChannelOut) (dir : Direction) (y : Sync) (f : FeedOut) : Word :=
  decResultWord (xingBits oa.xing oa.hasBit oa.bit) (xingBits ob.xing ob.hasBit ob.bit) dir y.tracking
    (isValid p f.map.s) f.stepped f.isMatch f.reloaded

/-- The state a completed frame leaves, given what MapperFeed returned (R240, R246). -/
def frameDone (s : State) (a b : Sample) (f : FeedOut) : State :=
  { s with
    decT := s.decT + 1#32
    ch0 := (stepA s a).ch
    ch1 := (stepB s b).ch
    dir := frameDir s a b
    map := f.map
    sync := syncStep s.act s.sync f
    res0 := f.map.s
    res1 := frameResult s.act (stepA s a) (stepB s b) (frameDir s a b) (syncStep s.act s.sync f) f
    res2 := speed (stepA s a).ch (stepB s b).ch }

/-- The body of DEC_SAMPLE after its two requirements (R240). -/
def decodeFrame (s : State) (a b : Sample) : Except ErrCode State :=
  match frameFeed s a b with
  | .ok f => .ok (frameDone s a b f)
  | .error e => .error e

/-- DEC_SAMPLE (R240). -/
def execDecSample (a b : Sample) (s : State) : Host.Outcome State Fault Refusal :=
  commit s (gated s (decodeFrame s a b))

end Sys2Proof.Machine
end

