-- ==== Sys2Proof/Machine/Filter.lean ====
section
/-! DEFINITION. The test filter's commands (spec/40_smoothing_filter.md R133 to R135). None is gated by CONFIGURED or FAULT. -/

namespace Sys2Proof.Machine

/-- TF_CONFIG (R133). -/
def execTfConfig (alpha : Word) (s : State) : Host.Outcome State Fault Refusal :=
  commit s
    (if factorLegal alpha then .ok { s with tfAlpha := alpha, tf := ⟨0#32, false⟩, res0 := alpha }
     else .error .invalidParameter)

/-- The test filter after an input (R134). -/
def tfNext (s : State) (x : Word) : FilterState := filterStep s.tf (signedData x) s.tfAlpha.toNat

/-- TF_UPDATE (R134). -/
def execTfUpdate (x : Word) (s : State) : Host.Outcome State Fault Refusal :=
  commit s (.ok { s with tf := tfNext s x, res0 := (tfNext s x).s })

/-- TF_PREVIEW (R135). -/
def execTfPreview (x : Word) (s : State) : Host.Outcome State Fault Refusal :=
  commit s (.ok { s with res0 := filterPreview s.tf (signedData x) s.tfAlpha.toNat })

end Sys2Proof.Machine
end

