-- ==== Sys2Proof/Machine/Generator.lean ====
section
/-! DEFINITION. The test generator's commands (spec/41_lfsr_generator.md R155 to R159). -/

namespace Sys2Proof.Machine

/-- TM_LOAD (R155). -/
def execTmLoad (v : Word) (s : State) : Host.Outcome State Fault Refusal :=
  commit s (gated s
    (if positionLegal s.act v then .ok { s with tmS := v, res0 := v } else .error .invalidParameter))

/-- A generator step stored into TM_S and reported (R156, R157). -/
def storeStep (s : State) (r : Except ErrCode GenStep) : Except ErrCode State :=
  match r with
  | .ok g => .ok { s with tmS := g.next, res0 := g.next, res1 := bitWord g.fb, res2 := bitWord g.out }
  | .error e => .error e

/-- A generator step reported only, TM_S unchanged (R158, R159). -/
def peekStep (s : State) (r : Except ErrCode GenStep) : Except ErrCode State :=
  match r with
  | .ok g => .ok { s with res0 := g.next, res1 := bitWord g.fb, res2 := bitWord g.out }
  | .error e => .error e

/-- TM_ADVANCE (R156). -/
def execTmAdvance (s : State) : Host.Outcome State Fault Refusal :=
  commit s (gated s (storeStep s (advance s.act s.tmS)))

/-- TM_REVERT (R157). -/
def execTmRevert (s : State) : Host.Outcome State Fault Refusal :=
  commit s (gated s (storeStep s (revert s.act s.tmS)))

/-- TM_PEEK_NEXT (R158). -/
def execTmPeekNext (s : State) : Host.Outcome State Fault Refusal :=
  commit s (gated s (peekStep s (advance s.act s.tmS)))

/-- TM_PEEK_PREV (R159). -/
def execTmPeekPrev (s : State) : Host.Outcome State Fault Refusal :=
  commit s (gated s (peekStep s (revert s.act s.tmS)))

end Sys2Proof.Machine
end

