-- ==== Sys2Proof/Machine/MapperCmds.lean ====
section
/-! DEFINITION. The bitstream mapper's commands MAP_LOAD and TM_BIT (spec/42_bitstream_mapper.md R183, R184). -/

namespace Sys2Proof.Machine

/-- The state a completed MAP_LOAD leaves (R184). -/
def mapLoaded (s : State) (pos : Word) : State :=
  { s with
    map := { s := pos, r := 0#32, rcnt := 0#6, rdir := .stopped }
    sync := { tracking := false, run := 0#8, lastMatch := false }
    res0 := pos
    res1 := bitWord (isValid s.act pos) }

/-- MAP_LOAD (R184). -/
def execMapLoad (pos : Word) (s : State) : Host.Outcome State Fault Refusal :=
  commit s (gated s (if positionLegal s.act pos then .ok (mapLoaded s pos) else .error .invalidParameter))

/-- The body of TM_BIT after its two requirements (R183). -/
def tmBitBody (bit : Bool) (dir : Direction) (s : State) : Except ErrCode State :=
  match mapperStep s.act s.tmS bit dir with
  | .ok (s2, isMatch) => .ok { s with tmS := s2, res0 := s2, res1 := matchWord isMatch (isValid s.act s2) }
  | .error e => .error e

/-- TM_BIT (R183). A direction other than FORWARD and BACKWARD is an illegal command, checked before anything else (R341). -/
def execTmBit (bit : Bool) (dir : Direction) (s : State) : Host.Outcome State Fault Refusal :=
  if dir.steps then commit s (gated s (tmBitBody bit dir s)) else commit s (.error .illegalCommand)

end Sys2Proof.Machine
end

