-- ==== Sys2Proof/Machine/Synthesizer.lean ====
section
/-! DEFINITION. The encoder: ENC_SAMPLE and ENC_LOAD (spec/45_synthesizer.md R280 to R285). -/

namespace Sys2Proof.Machine

/-- The signed argument v of the triangle wave (R282). -/
def triArg (ph : Word) : Int :=
  if ph.toNat < 2 ^ 30 then (ph.toNat : Int)
  else if ph.toNat < 3 * 2 ^ 30 then 2 ^ 31 - (ph.toNat : Int)
  else (ph.toNat : Int) - 2 ^ 32

/-- Tri(P, AMP) (R282): sgn(v) * floor(|v| * AMP / 2^30). -/
def tri (ph : Word) (amp : Nat) : Int :=
  (triArg ph).sign * (floorDiv ((triArg ph).natAbs * amp) (2 ^ 30) : Nat)

/-- EncBit(SE) (R283): the feedback bit Advance(SE) would insert. -/
def encBit (p : ConfigRegs) (se : Word) : Bool := feedback p se

/-- EncInc(b) (R284): the phase increment per sample, at most a quarter cycle. -/
def encInc (p : ConfigRegs) (encSpeed : Word) (b : Bool) : Nat :=
  min (floorDiv (2 ^ 31 * 2 * p.f0.toNat * encSpeed.toNat) (p.sr.toNat * (if b then p.k1.toNat else p.k0.toNat))) (2 ^ 30)

/-- What a sample does to the encoder: the new SE and PH, and whether a boundary was crossed. -/
structure EncMove where
  se      : Word
  ph      : Word
  crossed : Bool
  deriving DecidableEq, Repr

/-- FORWARD: SE advances when the phase reaches or passes the next multiple of 2^31 (R280, R285). -/
def encForward (p : ConfigRegs) (se ph : Word) (inc : Nat) : Except ErrCode EncMove :=
  if ph.toNat % 2 ^ 31 + inc ≥ 2 ^ 31 then
    match advance p se with
    | .ok g => .ok { se := g.next, ph := ph + BitVec.ofNat 32 inc, crossed := true }
    | .error e => .error e
  else .ok { se := se, ph := ph + BitVec.ofNat 32 inc, crossed := false }

/-- BACKWARD: SE reverts when the phase leaves a multiple of 2^31 downward or passes one (R280, R285). -/
def encBackward (p : ConfigRegs) (se ph : Word) (inc : Nat) : Except ErrCode EncMove :=
  if ph.toNat % 2 ^ 31 < inc then
    match revert p se with
    | .ok g => .ok { se := g.next, ph := ph - BitVec.ofNat 32 inc, crossed := true }
    | .error e => .error e
  else .ok { se := se, ph := ph - BitVec.ofNat 32 inc, crossed := false }

/-- The encoder's move on one sample, by ENC_DIR (R280). -/
def encMove (s : State) : Except ErrCode EncMove :=
  match s.encDir with
  | .stopped => .ok { se := s.encSE, ph := s.encPH, crossed := false }
  | .forward => encForward s.act s.encSE s.encPH (encInc s.act s.encSpeed (encBit s.act s.encSE))
  | .backward => encBackward s.act s.encSE s.encPH (encInc s.act s.encSpeed (encBit s.act s.encSE))

/-- The frame emitted at a phase (R280): channel A is Tri(PH), channel B Tri(PH - 2^30), packed as DEC_SAMPLE's DATA. -/
def encFrame (ph : Word) (amp : Nat) : Word :=
  frameData (BitVec.ofInt 16 (tri ph amp)) (BitVec.ofInt 16 (tri (ph - 0x40000000#32) amp))

/-- The state a completed ENC_SAMPLE leaves (R280). -/
def encDone (s : State) (m : EncMove) : State :=
  { s with
    encSE := m.se
    encPH := m.ph
    res0 := encFrame s.encPH s.encAmp.toNat
    res1 := encWord (encBit s.act s.encSE) m.crossed
    res2 := m.se }

/-- The body of ENC_SAMPLE after its two requirements (R280). -/
def encodeFrame (s : State) : Except ErrCode State :=
  match encMove s with
  | .ok m => .ok (encDone s m)
  | .error e => .error e

/-- ENC_SAMPLE (R280). -/
def execEncSample (s : State) : Host.Outcome State Fault Refusal := commit s (gated s (encodeFrame s))

/-- ENC_LOAD (R281). -/
def execEncLoad (pos : Word) (s : State) : Host.Outcome State Fault Refusal :=
  commit s (gated s
    (if positionLegal s.act pos then .ok { s with encSE := pos, encPH := 0#32, res0 := pos }
     else .error .invalidParameter))

end Sys2Proof.Machine
end

