-- ==== Sys2Proof/Machine/Dispatch.lean ====
section
/-! DEFINITION. The dispatch of a command to its meaning, one arm per constructor. -/

namespace Sys2Proof.Machine

def exec (i : Instr) (s : State) : Host.Outcome State Fault Refusal :=
  match i with
  | .nop => Sys2Proof.Machine.execNop s
  | .cfgWrite index value => Sys2Proof.Machine.execCfgWrite index value s
  | .read index => Sys2Proof.Machine.execRead index s
  | .configure => Sys2Proof.Machine.execConfigure s
  | .decSample a b => Sys2Proof.Machine.execDecSample a b s
  | .mapLoad pos => Sys2Proof.Machine.execMapLoad pos s
  | .encSample => Sys2Proof.Machine.execEncSample s
  | .encLoad pos => Sys2Proof.Machine.execEncLoad pos s
  | .tmLoad state => Sys2Proof.Machine.execTmLoad state s
  | .tmAdvance => Sys2Proof.Machine.execTmAdvance s
  | .tmRevert => Sys2Proof.Machine.execTmRevert s
  | .tmPeekNext => Sys2Proof.Machine.execTmPeekNext s
  | .tmPeekPrev => Sys2Proof.Machine.execTmPeekPrev s
  | .tmBit bit dir => Sys2Proof.Machine.execTmBit bit dir s
  | .tfConfig alpha => Sys2Proof.Machine.execTfConfig alpha s
  | .tfUpdate x => Sys2Proof.Machine.execTfUpdate x s
  | .tfPreview x => Sys2Proof.Machine.execTfPreview x s

end Sys2Proof.Machine
end

