-- ==== Sys2Proof/Machine/Port.lean ====
section
/-! DEFINITION. What the block does with one event on its inputs (spec/20_memory.md R80, R81; spec/70_reset_and_hazards.md
R370; spec/60_exceptions.md R356). -/

namespace Sys2Proof.Machine

/-- A command word presented on the command port: executed if legal, else ILLEGAL_COMMAND (R80, R103). -/
def runWord (w : CmdWord) (s : State) : Host.Outcome State Fault Refusal :=
  match decode w with
  | .ok i => exec i s
  | .error _ => illegalCommand s

/-- Hardware reset: every register to its reset value (R370); what the host presents afterwards is not the block's. -/
def hardwareReset (s : State) : State := { State.reset with inputs := s.inputs }

/-- One event taken from the inputs; `s` no longer lists it. -/
def takeInput (e : PortInput) (s : State) : Host.Outcome State Fault Refusal :=
  match e with
  | .command w => runWord w s
  | .reset => .next (hardwareReset s)

/-- The next step: the oldest event presented; with none the block is idle, and idling changes no state (R356, R371). -/
def serve (s : State) : Host.Outcome State Fault Refusal :=
  match s.inputs with
  | [] => .next s
  | e :: rest => takeInput e { s with inputs := rest }

end Sys2Proof.Machine
end

