-- ==== Sys2Proof/Machine/Step.lean ====
section
/-! DEFINITION. One step of the machine, and the host's way to present a command word. -/

namespace Sys2Proof.Machine

/-- One step: one event of the inputs, or idling (R80, R356). -/
def step (s : State) : Host.Outcome State Fault Refusal := serve s

/-- `s` with the command word of a table row presented first on the command port, so that the very next step takes it;
bits at and above `nbits` are 0. Log entry 2. -/
def State.withFetchWord (s : State) (nbits w : Nat) : State :=
  { s with inputs := .command (BitVec.ofNat 64 (w % 2 ^ nbits)) :: s.inputs }

end Sys2Proof.Machine
end

