-- ==== Sys2Proof/Safety.lean ====
section
/-! DEFINITION. What a good state is: the legality of a configuration (spec/10_state.md R36, R37), the invariants of
spec/10_state.md R47, and the sync invariant of spec/44_decoder.md R245. Each is an abbrev of a decidable proposition. -/

namespace Sys2Proof.Machine

/-- The "legal at CONFIGURE" column of R36. -/
abbrev ConfigRegs.FormatLegal (c : ConfigRegs) : Prop :=
  1 ≤ c.sr.toNat ∧ (1 ≤ c.f0.toNat ∧ 2 * c.f0.toNat ≤ c.sr.toNat) ∧ (1 ≤ c.f1.toNat ∧ 2 * c.f1.toNat ≤ c.sr.toNat) ∧
    (1 ≤ c.width.toNat ∧ c.width.toNat ≤ 32) ∧ (c.taps.toNat < 2 ^ c.width.toNat ∧ c.taps.toNat % 2 = 1) ∧
    (1 ≤ c.seed.toNat ∧ c.seed.toNat < 2 ^ c.width.toNat) ∧ c.valid.toNat ≤ 2 ^ c.width.toNat - 1

/-- The "legal at CONFIGURE" column of R37. -/
abbrev ConfigRegs.ParamsLegal (c : ConfigRegs) : Prop :=
  (1 ≤ c.aBase.toNat ∧ c.aBase.toNat ≤ 65536) ∧ (1 ≤ c.aPitch.toNat ∧ c.aPitch.toNat ≤ 65536) ∧ c.hyst.toNat ≤ 65535 ∧
    1 ≤ c.k0.toNat ∧ c.k0.toNat < c.k1.toNat ∧ (1 ≤ c.syncLen.toNat ∧ c.syncLen.toNat ≤ 255) ∧ 1 ≤ c.stopTimeout.toNat

/-- A configuration CONFIGURE accepts. -/
abbrev ConfigRegs.Legal (c : ConfigRegs) : Prop := c.FormatLegal ∧ c.ParamsLegal

/-- A generator state lies in [1, 2^W - 1]. -/
abbrev ConfigRegs.InRange (c : ConfigRegs) (v : Word) : Prop := 1 ≤ v.toNat ∧ v.toNat < 2 ^ c.width.toNat

/-- The session part of R47: S, SE, TM_S in [1, 2^W - 1], R < 2^W, RCNT <= W. -/
abbrev State.SessionsInRange (s : State) : Prop :=
  s.act.InRange s.map.s ∧ s.act.InRange s.encSE ∧ s.act.InRange s.tmS ∧
    s.map.r.toNat < 2 ^ s.act.width.toNat ∧ s.map.rcnt.toNat ≤ s.act.width.toNat

/-- The invariants of R47, with what they rest on: an active configuration CONFIGURE accepted and a legal TF_ALPHA.
SIDE is never 3 and LAST_ERR never 8 to 15 by their types. -/
abbrev State.Inv (s : State) : Prop :=
  (s.configured = true → s.act.Legal ∧ s.SessionsInRange) ∧ s.fault = false ∧
    0 ≤ s.ch0.pitch.s.toInt ∧ 0 ≤ s.ch1.pitch.s.toInt ∧ 1 ≤ s.tfAlpha.toNat ∧ s.tfAlpha.toNat ≤ 65536

/-- A decoder that reports TRACKING has read SYNC_LEN good bits in a row, the last of which matched and left a valid
position (R245). CONFIGURED does not matter: a CONFIGURE that fails keeps the sessions (R312), TRACKING with them. -/
abbrev State.TrackingEarned (s : State) : Prop :=
  s.sync.tracking = true →
    s.act.syncLen.toNat ≤ s.sync.run.toNat ∧ s.map.s.toNat < s.act.valid.toNat ∧ s.sync.lastMatch = true

end Sys2Proof.Machine
end

