-- ==== Sys2Proof/Certificates/Slice0/Obligations.lean ====
section
/-! DEFINITION. The statements for the provers. First the spec's formulas on natural and integer numbers, written apart
from the machine's own definitions; then the obligations. -/

namespace Sys2Proof.Spec

open Sys2Proof Sys2Proof.Machine

/-! ## The spec's formulas on plain numbers -/

/-- `parity(v)` (R11): an odd number of 1 bits. -/
def oddOnes (v : Nat) : Bool := ((List.range 32).filter (fun i => v.testBit i)).length % 2 == 1

/-- 1 or 0. -/
def one (b : Bool) : Nat := if b then 1 else 0

/-- f of Advance(S) (R150). -/
def advanceBit (p : ConfigRegs) (st : Word) : Bool := oddOnes (st.toNat &&& p.taps.toNat)

/-- S' of Advance(S) (R150). -/
def advanceNext (p : ConfigRegs) (st : Word) : Nat :=
  st.toNat / 2 + one (advanceBit p st) * 2 ^ (p.width.toNat - 1)

/-- g of Revert(S) (R151). -/
def revertBit (p : ConfigRegs) (st : Word) : Bool :=
  oddOnes (st.toNat &&& (p.taps.toNat / 2 ||| 2 ^ (p.width.toNat - 1)))

/-- S' of Revert(S) (R151). -/
def revertNext (p : ConfigRegs) (st : Word) : Nat := 2 * st.toNat % 2 ^ p.width.toNat + one (revertBit p st)

/-- S[W-1]. -/
def topBit (p : ConfigRegs) (st : Word) : Bool := st.toNat.testBit (p.width.toNat - 1)

/-- S' of an initialised FilterStep (R130). -/
def filterNext (st x : Int) (a : Nat) : Int := x + Int.tdiv ((65536 - (a : Int)) * (st - x)) 65536

/-- S' of FilterStep whatever INIT is (R130). -/
def filterValue (f : FilterState) (x : Int) (a : Nat) : Int := if f.init then filterNext f.s.toInt x a else x

/-- CNT after the increment of R202. -/
def counted (c : Channel) : Nat := min (c.cnt.toNat + 1) (2 ^ 32 - 1)

/-- SPEED (R42). -/
def meanPitch (c0 c1 : Channel) : Int := (c0.pitch.s.toInt + c1.pitch.s.toInt) / 2

/-- Tri(P, AMP) (R282). -/
def triangle (ph amp : Nat) : Int :=
  let v : Int := if ph < 2 ^ 30 then ph else if ph < 3 * 2 ^ 30 then 2 ^ 31 - ph else (ph : Int) - 2 ^ 32
  v.sign * ((v.natAbs * amp / 2 ^ 30 : Nat) : Int)

/-- zext_16 of a sample value. -/
def halfWord (y : Int) : Nat := (y % 2 ^ 16).toNat

/-- EncInc(EncBit(SE)) (R283, R284). -/
def encStride (s : State) : Nat :=
  min (2 ^ 31 * 2 * s.act.f0.toNat * s.encSpeed.toNat /
    (s.act.sr.toNat * (if advanceBit s.act s.encSE then s.act.k1.toNat else s.act.k0.toNat))) (2 ^ 30)

/-- Whether this ENC_SAMPLE crosses a boundary (R280, R285). -/
def encCrosses (s : State) : Bool :=
  match s.encDir with
  | .stopped => false
  | .forward => decide (s.encPH.toNat % 2 ^ 31 + encStride s ≥ 2 ^ 31)
  | .backward => decide (s.encPH.toNat % 2 ^ 31 < encStride s)

/-- SE after this ENC_SAMPLE (R280). -/
def encNextState (s : State) : Word :=
  match s.encDir with
  | .stopped => s.encSE
  | .forward => if encCrosses s then BitVec.ofNat 32 (advanceNext s.act s.encSE) else s.encSE
  | .backward => if encCrosses s then BitVec.ofNat 32 (revertNext s.act s.encSE) else s.encSE

/-- PH after this ENC_SAMPLE (R280). -/
def encNextPhase (s : State) : Word :=
  match s.encDir with
  | .stopped => s.encPH
  | .forward => BitVec.ofNat 32 ((s.encPH.toNat + encStride s) % 2 ^ 32)
  | .backward => BitVec.ofNat 32 ((s.encPH.toNat + 2 ^ 32 - encStride s) % 2 ^ 32)

/-- Reliable(c, o) (R242). -/
def Reliable (c o : ChannelOut) : Prop :=
  c.hadx = true ∧ o.ch.havex = true ∧ o.ch.side ≠ .unknown ∧ o.ch.cnt.toNat < c.agePrev.toNat

/-! ## Register values -/

/-- STATUS as a number (R33). -/
def status (s : State) : Nat :=
  one s.configured + 2 * one s.sync.tracking + 4 * s.dir.code.toNat +
    16 * one (s.configured && decide (s.map.s.toNat < s.act.valid.toNat)) + 32 * one s.sync.lastMatch +
    64 * one s.fault + 256 * s.lastErr.code.toNat

/-- CH_FLAGS as a number (R35). -/
def chFlags (c : Channel) : Nat :=
  one c.base.init + 2 * one c.pitch.init + 4 * c.side.code.toNat + 16 * one c.havex

/-- One configuration block, offset by offset; offset 7 is not listed (R35 to R37). -/
def configRows (base : Nat) (c : ConfigRegs) : List (Nat × Word) :=
  [(base, c.f0), (base + 1, c.f1), (base + 2, c.sr), (base + 3, c.width), (base + 4, c.taps), (base + 5, c.seed),
   (base + 6, c.valid), (base + 8, c.aBase), (base + 9, c.aPitch), (base + 10, c.hyst), (base + 11, c.bitThr),
   (base + 12, c.k0), (base + 13, c.k1), (base + 14, c.syncLen), (base + 15, c.stopTimeout)]

/-- One channel block (R35). -/
def channelRows (base : Nat) (c : Channel) : List (Nat × Word) :=
  [(base, c.base.s), (base + 1, BitVec.ofNat 32 (chFlags c)), (base + 2, c.cnt), (base + 3, c.pw), (base + 4, c.pitch.s)]

/-- The other readable indices of the encoder's controls, the decoder, the encoder and the test units (R35). -/
def unitRows (s : State) : List (Nat × Word) :=
  [(0x10, s.encSpeed), (0x11, BitVec.ofNat 32 s.encDir.code.toNat), (0x12, BitVec.ofNat 32 s.encAmp.toNat),
   (0x20, BitVec.ofNat 32 (status s)), (0x21, s.map.s), (0x22, BitVec.ofInt 32 (meanPitch s.ch0 s.ch1)), (0x23, s.decT),
   (0x24, s.map.r), (0x25, BitVec.ofNat 32 (s.map.rcnt.toNat + 256 * s.map.rdir.code.toNat)),
   (0x26, BitVec.ofNat 32 s.sync.run.toNat), (0x47, 0#32), (0x50, s.encSE), (0x51, s.encPH), (0x58, s.tmS),
   (0x59, s.tf.s), (0x5A, BitVec.ofNat 32 (one s.tf.init)), (0x5B, s.tfAlpha)]

/-- Every readable index with its value (R35). -/
def readRows (s : State) : List (Nat × Word) :=
  configRows 0x00 s.staged ++ channelRows 0x30 s.ch0 ++ channelRows 0x38 s.ch1 ++ configRows 0x40 s.act ++ unitRows s

/-! ## Words the block rejects -/

/-- Presented on the command port, the word reports ILLEGAL_COMMAND and has no other effect (R103). -/
def Rejected (w : CmdWord) : Prop :=
  ∀ (s : State) (rest : List PortInput), s.inputs = .command w :: rest →
    step s = .next { s with inputs := rest, lastErr := .illegalCommand }

/-- Bits 7:0 of a command word. -/
def opcOf (w : CmdWord) : Nat := w.toNat % 256

/-- Bits 15:8 of a command word. -/
def argOf (w : CmdWord) : Nat := w.toNat / 256 % 256

/-- Bits 31:16 of a command word. -/
def rsvOf (w : CmdWord) : Nat := w.toNat / 65536 % 65536

/-- Bits 63:32 of a command word. -/
def dataOf (w : CmdWord) : Nat := w.toNat / 4294967296

/-- The opcodes that use ARG (R102): CFG_WRITE, READ, TM_BIT. -/
def usesArg (opc : Nat) : Prop := opc = 1 ∨ opc = 2 ∨ opc = 0xD

/-- The opcodes that use DATA (R102). -/
def usesData (opc : Nat) : Prop :=
  opc = 1 ∨ opc = 4 ∨ opc = 5 ∨ opc = 7 ∨ opc = 8 ∨ opc = 0xE ∨ opc = 0xF ∨ opc = 0x10

/-- The legal words of R103. -/
def LegalWord (w : CmdWord) : Prop :=
  opcOf w ≤ 0x10 ∧ rsvOf w = 0 ∧ (¬ usesArg (opcOf w) → argOf w = 0) ∧ (¬ usesData (opcOf w) → dataOf w = 0) ∧
    (opcOf w = 0xD → argOf w / 8 = 0 ∧ (argOf w / 2 % 4 = 1 ∨ argOf w / 2 % 4 = 2))

/-! ## Commands that need the active configuration -/

/-- While CONFIGURED = 0 the command reports NOT_CONFIGURED; while CONFIGURED = 1 and FAULT = 1 it reports FAULTED; nothing
else changes (R344, R345). -/
def Gated (i : Instr) : Prop :=
  ∀ s : State,
    (s.configured = false → exec i s = .next { s with lastErr := .notConfigured }) ∧
    (s.configured = true → s.fault = true → exec i s = .next { s with lastErr := .faulted })

/-- The commands listed for NOT_CONFIGURED and FAULTED in R340: DEC_SAMPLE, MAP_LOAD, ENC_SAMPLE, ENC_LOAD, every TM_ command. -/
def needsConfig : Instr → Bool
  | .decSample _ _ => true
  | .mapLoad _ => true
  | .encSample => true
  | .encLoad _ => true
  | .tmLoad _ => true
  | .tmAdvance => true
  | .tmRevert => true
  | .tmPeekNext => true
  | .tmPeekPrev => true
  | .tmBit _ d => d.steps
  | .nop => false
  | .cfgWrite _ _ => false
  | .read _ => false
  | .configure => false
  | .tfConfig _ => false
  | .tfUpdate _ => false
  | .tfPreview _ => false

/-- The conditions under which a generator command runs (R155 to R159): configured, not faulted, and the state the
invariants of R47 give. -/
def Ready (s : State) : Prop := s.configured = true ∧ s.Inv

/-- The codes each command can report (R340). -/
def codesOf : Instr → List ErrCode
  | .nop => [.ok]
  | .cfgWrite _ _ => [.ok, .badIndex]
  | .read _ => [.ok, .badIndex]
  | .configure => [.ok, .invalidFormat, .invalidParameter]
  | .decSample _ _ => [.ok, .notConfigured, .faulted, .lfsrZero]
  | .mapLoad _ => [.ok, .notConfigured, .faulted, .invalidParameter]
  | .encSample => [.ok, .notConfigured, .faulted, .lfsrZero]
  | .encLoad _ => [.ok, .notConfigured, .faulted, .invalidParameter]
  | .tmLoad _ => [.ok, .notConfigured, .faulted, .invalidParameter]
  | .tmAdvance => [.ok, .notConfigured, .faulted, .lfsrZero]
  | .tmRevert => [.ok, .notConfigured, .faulted, .lfsrZero]
  | .tmPeekNext => [.ok, .notConfigured, .faulted, .lfsrZero]
  | .tmPeekPrev => [.ok, .notConfigured, .faulted, .lfsrZero]
  | .tmBit _ _ => [.ok, .notConfigured, .faulted, .lfsrZero]
  | .tfConfig _ => [.ok, .invalidParameter]
  | .tfUpdate _ => [.ok]
  | .tfPreview _ => [.ok]

/-! ## Iterated functions -/

/-- n MapperSteps in one direction with the given bits, oldest first (R182). -/
def mapperRun (p : ConfigRegs) (d : Direction) : List Bool → Word → Except ErrCode Word
  | [], st => .ok st
  | b :: bs, st =>
    match mapperStep p st b d with
    | .ok (st2, _) => mapperRun p d bs st2
    | .error e => .error e

/-- n generator steps forward, each feedback bit shifted into the window as R244 shifts a bit read FORWARD. -/
def forwardWindow (p : ConfigRegs) : Nat → Word × Word → Except ErrCode (Word × Word)
  | 0, x => .ok x
  | n + 1, x =>
    match advance p x.1 with
    | .ok g => forwardWindow p n (g.next, shiftInForward p x.2 g.fb)
    | .error e => .error e

/-- n generator steps backward, each dropped bit shifted into the window as R244 shifts a bit read BACKWARD. -/
def backwardWindow (p : ConfigRegs) : Nat → Word × Word → Except ErrCode (Word × Word)
  | 0, x => .ok x
  | n + 1, x =>
    match revert p x.1 with
    | .ok g => backwardWindow p n (g.next, shiftInBackward p x.2 g.out)
    | .error e => .error e

end Sys2Proof.Spec

open Sys2Proof Sys2Proof.Machine Sys2Proof.Spec

/-! ## Encoding -/

/-- Decoding the word of a well-formed command gives it back, every operand at every value of its field. -/
def Obligations.DecodeOfEncodeIsIdentity : Prop := ∀ i : Instr, i.wellFormed = true → decode (encode i) = .ok i

/-- A word has one meaning: what decodes is well formed and encodes to that word. -/
def Obligations.EncodeOfDecodeIsIdentity : Prop :=
  ∀ (w : CmdWord) (i : Instr), decode w = .ok i → i.wellFormed = true ∧ encode i = w

/-- R103: the legal words, exactly, and what every other word does. -/
def Obligations.LegalWordsExactlyAndOthersRejected : Prop :=
  ∀ w : CmdWord, ((∃ i, decode w = .ok i) ↔ LegalWord w) ∧ (¬ LegalWord w → Rejected w)

/-- R105: a word selects a row exactly when its masked bits match (for TM_BIT, with ARG[2:1] 1 or 2), and it decodes to
that row's command. -/
def Obligations.TableRowsSelectTheirCommands : Prop :=
  ∀ w : CmdWord,
    (w &&& 0xFFFFFFFFFFFFFFFF#64 = 0x0#64 ↔ decode w = .ok .nop) ∧
    (w &&& 0x00000000FFFF00FF#64 = 0x1#64 ↔ ∃ i v, decode w = .ok (.cfgWrite i v)) ∧
    (w &&& 0xFFFFFFFFFFFF00FF#64 = 0x2#64 ↔ ∃ i, decode w = .ok (.read i)) ∧
    (w &&& 0xFFFFFFFFFFFFFFFF#64 = 0x3#64 ↔ decode w = .ok .configure) ∧
    (w &&& 0x00000000FFFFFFFF#64 = 0x4#64 ↔ ∃ a b, decode w = .ok (.decSample a b)) ∧
    (w &&& 0x00000000FFFFFFFF#64 = 0x5#64 ↔ ∃ v, decode w = .ok (.mapLoad v)) ∧
    (w &&& 0xFFFFFFFFFFFFFFFF#64 = 0x6#64 ↔ decode w = .ok .encSample) ∧
    (w &&& 0x00000000FFFFFFFF#64 = 0x7#64 ↔ ∃ v, decode w = .ok (.encLoad v)) ∧
    (w &&& 0x00000000FFFFFFFF#64 = 0x8#64 ↔ ∃ v, decode w = .ok (.tmLoad v)) ∧
    (w &&& 0xFFFFFFFFFFFFFFFF#64 = 0x9#64 ↔ decode w = .ok .tmAdvance) ∧
    (w &&& 0xFFFFFFFFFFFFFFFF#64 = 0xA#64 ↔ decode w = .ok .tmRevert) ∧
    (w &&& 0xFFFFFFFFFFFFFFFF#64 = 0xB#64 ↔ decode w = .ok .tmPeekNext) ∧
    (w &&& 0xFFFFFFFFFFFFFFFF#64 = 0xC#64 ↔ decode w = .ok .tmPeekPrev) ∧
    (w &&& 0xFFFFFFFFFFFFF8FF#64 = 0xD#64 ∧ (argOf w / 2 % 4 = 1 ∨ argOf w / 2 % 4 = 2) ↔
      ∃ b d, decode w = .ok (.tmBit b d)) ∧
    (w &&& 0x00000000FFFFFFFF#64 = 0xE#64 ↔ ∃ v, decode w = .ok (.tfConfig v)) ∧
    (w &&& 0x00000000FFFFFFFF#64 = 0xF#64 ↔ ∃ v, decode w = .ok (.tfUpdate v)) ∧
    (w &&& 0x00000000FFFFFFFF#64 = 0x10#64 ↔ ∃ v, decode w = .ok (.tfPreview v))

/-- R101: which bits of the word each operand is. -/
def Obligations.OperandsAreTheirFields : Prop :=
  ∀ w : CmdWord,
    (∀ i v, decode w = .ok (.cfgWrite i v) → i.toNat = argOf w ∧ v.toNat = dataOf w) ∧
    (∀ i, decode w = .ok (.read i) → i.toNat = argOf w) ∧
    (∀ a b, decode w = .ok (.decSample a b) → a.toNat = dataOf w % 65536 ∧ b.toNat = dataOf w / 65536) ∧
    (∀ v, decode w = .ok (.mapLoad v) ∨ decode w = .ok (.encLoad v) ∨ decode w = .ok (.tmLoad v) ∨
      decode w = .ok (.tfConfig v) ∨ decode w = .ok (.tfUpdate v) ∨ decode w = .ok (.tfPreview v) → v.toNat = dataOf w) ∧
    (∀ b d, decode w = .ok (.tmBit b d) → one b = argOf w % 2 ∧ d.code.toNat = argOf w / 2 % 4)

/-- R109: the worked encodings, both ways. -/
def Obligations.WorkedEncodings : Prop :=
  encode (.cfgWrite 0x03#8 4#32) = 0x0000000400000301#64 ∧ decode 0x0000000400000301#64 = .ok (.cfgWrite 0x03#8 4#32) ∧
  encode (.read 0x20#8) = 0x0000000000002002#64 ∧ decode 0x0000000000002002#64 = .ok (.read 0x20#8) ∧
  encode (.decSample 1000#16 (-1000#16)) = 0xFC1803E800000004#64 ∧
  decode 0xFC1803E800000004#64 = .ok (.decSample 1000#16 (-1000#16)) ∧
  encode (.tmBit true .backward) = 0x000000000000050D#64 ∧ decode 0x000000000000050D#64 = .ok (.tmBit true .backward) ∧
  encode (.tfUpdate (-100#32)) = 0xFFFFFF9C0000000F#64 ∧ decode 0xFFFFFF9C0000000F#64 = .ok (.tfUpdate (-100#32))

/-- R85, for command words on a byte link: byte k holds bits [8k+7:8k], and the bytes decode as the word does.
That any other number of bytes is no command is the model's choice of log entry 9 (DESIGN CHOICE), no rule of the spec. -/
def Obligations.ByteLinkIsLittleEndian : Prop :=
  (∀ w : CmdWord, w.toBytes.length = 8 ∧ decodeBytes w.toBytes = decode w ∧
    ∀ k : Nat, k < 8 → w.toBytes[k]? = some (BitVec.ofNat 8 (w.toNat / 2 ^ (8 * k)))) ∧
  ∀ l : List Byte, l.length ≠ 8 → decodeBytes l = .error .notOneWord

/-- R85: a command word is eight bytes and a register value or result four, byte k holding bits [8k+7:8k]; a DEC_SAMPLE
word carries channel A in bits [47:32] and channel B in [63:48], and ENC_SAMPLE's RES0 channel A in [15:0] and channel B
in [31:16]. -/
def Obligations.WordsValuesAndFramesOnByteLink : Prop :=
  (∀ w : CmdWord, w.toBytes.length = 8 ∧
    ∀ k : Nat, k < 8 → w.toBytes[k]? = some (BitVec.ofNat 8 (w.toNat / 2 ^ (8 * k)))) ∧
  (∀ v : Word, v.toBytes.length = 4 ∧
    ∀ k : Nat, k < 4 → v.toBytes[k]? = some (BitVec.ofNat 8 (v.toNat / 2 ^ (8 * k)))) ∧
  (∀ a b : Sample, (encode (.decSample a b)).toNat / 2 ^ 32 % 2 ^ 16 = a.toNat ∧
    (encode (.decSample a b)).toNat / 2 ^ 48 = b.toNat) ∧
  ∀ s : State, Ready s → ∃ t : State, exec .encSample s = .next t ∧
    t.res0.toNat % 2 ^ 16 = halfWord (triangle s.encPH.toNat s.encAmp.toNat) ∧
    t.res0.toNat / 2 ^ 16 = halfWord (triangle ((s.encPH.toNat + 3 * 2 ^ 30) % 2 ^ 32) s.encAmp.toNat)

/-! ## The step -/

/-- A step runs the decoded command: when the oldest event is a command word that decodes to `i`, the step is `exec i`
on the state with that event taken. -/
def Obligations.StepRunsDecodedCommand : Prop :=
  ∀ (s : State) (w : CmdWord) (rest : List PortInput) (i : Instr),
    s.inputs = .command w :: rest → decode w = .ok i → step s = exec i { s with inputs := rest }

/-- The model's choice of log entry 1, from R356 (idling changes no state): with no event presented a step changes nothing. -/
def Obligations.IdleStepChangesNothing : Prop := ∀ s : State, s.inputs = [] → step s = .next s

/-- The model's choice of log entries 1 and 3 (DESIGN CHOICE), from R80 and R88 (commands taken one at a time, in presentation
order): a step takes the oldest event and leaves the later ones as they were presented. That they survive when that event is
a reset is log entry 3. -/
def Obligations.EventsAreTakenInOrder : Prop :=
  ∀ (s t : State) (e : PortInput) (rest : List PortInput), s.inputs = e :: rest → step s = .next t → t.inputs = rest

/-- R370: hardware reset sets every register to the value of its table, from any state, and `READ STATUS` then returns 0;
no command steps S, SE or TM_S before a CONFIGURE succeeds. What the host still presents (`rest'`) is no register of the block. -/
def Obligations.HardwareResetSetsEveryRegister : Prop :=
  (∀ (s : State) (rest : List PortInput), s.inputs = .reset :: rest → ∃ rest' : List PortInput,
    step s = .next
      { inputs := rest'
        configured := false
        fault := false
        lastErr := .ok
        res0 := 0#32
        res1 := 0#32
        res2 := 0#32
        staged := ⟨0#32, 0#32, 0#32, 0#32, 0#32, 0#32, 0#32, 0x00000100#32, 0x00001000#32, 0x00000100#32, 0x00010000#32,
          0x0000CCCD#32, 0x00015555#32, 0x00000010#32, 0x00001000#32⟩
        act := ⟨0#32, 0#32, 0#32, 0#32, 0#32, 0#32, 0#32, 0#32, 0#32, 0#32, 0#32, 0#32, 0#32, 0#32, 0#32⟩
        encSpeed := 0x00010000#32
        encDir := .stopped
        encAmp := 16384#15
        ch0 := ⟨⟨0#32, false⟩, .unknown, 0#32, false, 0#32, ⟨0#32, false⟩⟩
        ch1 := ⟨⟨0#32, false⟩, .unknown, 0#32, false, 0#32, ⟨0#32, false⟩⟩
        map := ⟨0#32, 0#32, 0#6, .stopped⟩
        dir := .stopped
        sync := ⟨false, 0#8, false⟩
        decT := 0#32
        encSE := 0#32
        encPH := 0#32
        tmS := 0#32
        tf := ⟨0#32, false⟩
        tfAlpha := 0x00008000#32 }) ∧
  exec (.read 0x20#8) State.reset = .next { State.reset with res0 := 0#32, lastErr := .ok } ∧
  ∀ (i : Instr) (s t : State), s.configured = false → exec i s = .next t → t.configured = false →
    t.map.s = s.map.s ∧ t.encSE = s.encSE ∧ t.tmS = s.tmS

/-- R343: no event stops the block, in any state whatever. -/
def Obligations.NoEventStopsTheBlock : Prop := ∀ s : State, ∃ t : State, step s = .next t

/-! ## Control commands -/

/-- R313. -/
def Obligations.NopOnlyReportsOk : Prop :=
  (∀ s : State, exec .nop s = .next { s with lastErr := .ok }) ∧ decode 0x0000000000000000#64 = .ok .nop ∧
  ∀ w : CmdWord, opcOf w = 0x00 → w ≠ 0#64 → Rejected w

/-- R310: each writable index, with its legalisation; every other index; the words rejected. -/
def Obligations.CfgWriteWritesOneRegister : Prop :=
  (∀ (s : State) (v : Word),
    exec (.cfgWrite 0x00#8 v) s = .next { s with staged := { s.staged with f0 := v }, lastErr := .ok } ∧
    exec (.cfgWrite 0x01#8 v) s = .next { s with staged := { s.staged with f1 := v }, lastErr := .ok } ∧
    exec (.cfgWrite 0x02#8 v) s = .next { s with staged := { s.staged with sr := v }, lastErr := .ok } ∧
    exec (.cfgWrite 0x03#8 v) s = .next { s with staged := { s.staged with width := v }, lastErr := .ok } ∧
    exec (.cfgWrite 0x04#8 v) s = .next { s with staged := { s.staged with taps := v }, lastErr := .ok } ∧
    exec (.cfgWrite 0x05#8 v) s = .next { s with staged := { s.staged with seed := v }, lastErr := .ok } ∧
    exec (.cfgWrite 0x06#8 v) s = .next { s with staged := { s.staged with valid := v }, lastErr := .ok } ∧
    exec (.cfgWrite 0x08#8 v) s = .next { s with staged := { s.staged with aBase := v }, lastErr := .ok } ∧
    exec (.cfgWrite 0x09#8 v) s = .next { s with staged := { s.staged with aPitch := v }, lastErr := .ok } ∧
    exec (.cfgWrite 0x0A#8 v) s = .next { s with staged := { s.staged with hyst := v }, lastErr := .ok } ∧
    exec (.cfgWrite 0x0B#8 v) s = .next { s with staged := { s.staged with bitThr := v }, lastErr := .ok } ∧
    exec (.cfgWrite 0x0C#8 v) s = .next { s with staged := { s.staged with k0 := v }, lastErr := .ok } ∧
    exec (.cfgWrite 0x0D#8 v) s = .next { s with staged := { s.staged with k1 := v }, lastErr := .ok } ∧
    exec (.cfgWrite 0x0E#8 v) s = .next { s with staged := { s.staged with syncLen := v }, lastErr := .ok } ∧
    exec (.cfgWrite 0x0F#8 v) s = .next { s with staged := { s.staged with stopTimeout := v }, lastErr := .ok } ∧
    exec (.cfgWrite 0x10#8 v) s = .next { s with encSpeed := v, lastErr := .ok } ∧
    exec (.cfgWrite 0x11#8 v) s =
      .next { s with
        encDir := if v.toNat = 1 then .forward else if v.toNat = 2 then .backward else .stopped
        lastErr := .ok } ∧
    exec (.cfgWrite 0x12#8 v) s = .next { s with encAmp := BitVec.ofNat 15 (min v.toNat 32767), lastErr := .ok }) ∧
  (∀ (s : State) (i : BitVec 8) (v : Word), i.toNat = 0x07 ∨ 0x12 < i.toNat →
    exec (.cfgWrite i v) s = .next { s with lastErr := .badIndex }) ∧
  ∀ w : CmdWord, opcOf w = 0x01 → rsvOf w ≠ 0 → Rejected w

/-- R311 over the index space of R35: every readable index with its value; every other index; the words rejected. -/
def Obligations.ReadReturnsEveryRegister : Prop :=
  (∀ (s : State) (i : BitVec 8) (v : Word), (i.toNat, v) ∈ readRows s →
    exec (.read i) s = .next { s with res0 := v, lastErr := .ok }) ∧
  (∀ (s : State) (i : BitVec 8), (∀ v, (i.toNat, v) ∉ readRows s) → exec (.read i) s = .next { s with lastErr := .badIndex }) ∧
  ∀ w : CmdWord, opcOf w = 0x02 → rsvOf w ≠ 0 ∨ dataOf w ≠ 0 → Rejected w

/-- R35: the reserved indices, exactly. -/
def Obligations.ReservedIndicesExactly : Prop :=
  ∀ (s : State) (i : BitVec 8),
    exec (.read i) s = .next { s with lastErr := .badIndex } ↔
      i.toNat = 0x07 ∨ (0x13 ≤ i.toNat ∧ i.toNat ≤ 0x1F) ∨ (0x27 ≤ i.toNat ∧ i.toNat ≤ 0x2F) ∨
        (0x35 ≤ i.toNat ∧ i.toNat ≤ 0x37) ∨ (0x3D ≤ i.toNat ∧ i.toNat ≤ 0x3F) ∨ (0x52 ≤ i.toNat ∧ i.toNat ≤ 0x57) ∨
        0x5C ≤ i.toNat

/-- R33: the fields of the STATUS word READ returns. -/
def Obligations.StatusWordFields : Prop :=
  ∀ s : State, ∃ t : State, exec (.read 0x20#8) s = .next t ∧
    t.res0.getLsbD 0 = s.configured ∧ t.res0.getLsbD 1 = s.sync.tracking ∧ t.res0.extractLsb' 2 2 = s.dir.code ∧
    (t.res0.getLsbD 4 = true ↔ s.configured = true ∧ s.map.s.toNat < s.act.valid.toNat) ∧
    t.res0.getLsbD 5 = s.sync.lastMatch ∧ t.res0.getLsbD 6 = s.fault ∧ t.res0.getLsbD 7 = false ∧
    t.res0.extractLsb' 8 4 = s.lastErr.code ∧ t.res0.extractLsb' 12 20 = 0#20

/-- R312: the success, both failures in their order, and the words rejected. -/
def Obligations.ConfigureActivatesOrClearsConfigured : Prop :=
  (∀ s : State, s.staged.Legal → exec .configure s = .next
    { s with
      act := s.staged
      configured := true
      fault := false
      ch0 := ⟨⟨0#32, false⟩, .unknown, 0#32, false, 0#32, ⟨0#32, false⟩⟩
      ch1 := ⟨⟨0#32, false⟩, .unknown, 0#32, false, 0#32, ⟨0#32, false⟩⟩
      map := ⟨s.staged.seed, 0#32, 0#6, .stopped⟩
      dir := .stopped
      sync := ⟨false, 0#8, false⟩
      decT := 0#32
      encSE := s.staged.seed
      encPH := 0#32
      tmS := s.staged.seed
      res0 := 0#32
      lastErr := .ok }) ∧
  (∀ s : State, ¬ s.staged.FormatLegal →
    exec .configure s = .next { s with configured := false, lastErr := .invalidFormat }) ∧
  (∀ s : State, s.staged.FormatLegal → ¬ s.staged.ParamsLegal →
    exec .configure s = .next { s with configured := false, lastErr := .invalidParameter }) ∧
  ∀ w : CmdWord, opcOf w = 0x03 → w ≠ 0x3#64 → Rejected w

/-! ## Errors, gating and frames over all commands -/

/-- R345: NOT_CONFIGURED while CONFIGURED = 0 for exactly the commands that need the configuration. -/
def Obligations.NotConfiguredGatesSessions : Prop :=
  ∀ (i : Instr) (s : State), i.wellFormed = true → s.configured = false →
    (needsConfig i = true → exec i s = .next { s with lastErr := .notConfigured }) ∧
    (needsConfig i = false → ∃ t : State, exec i s = .next t ∧ t.lastErr ≠ .notConfigured)

/-- R344: while FAULT is 1 the generator commands fail with FAULTED (NOT_CONFIGURED coming first, R341) and the others are
not affected by it; FAULT stays 1 at every step but a successful CONFIGURE and hardware reset. -/
def Obligations.FaultIsStickyAndGates : Prop :=
  (∀ (i : Instr) (s t : State), i.wellFormed = true → s.fault = true → exec i s = .next t →
    (needsConfig i = true → s.configured = true → t = { s with lastErr := .faulted }) ∧
    (needsConfig i = false → t.lastErr ≠ .faulted)) ∧
  ∀ s t : State, s.fault = true → step s = .next t → t.fault = false →
    (∃ rest, s.inputs = .reset :: rest) ∨
    (∃ w rest, s.inputs = .command w :: rest ∧ decode w = .ok .configure ∧ t.lastErr = .ok)

/-- R152: a step from the all-zero state, in each of the seven commands that can take one. -/
def Obligations.ZeroStateRaisesLfsrZero : Prop :=
  (∀ (s : State) (i : Instr), s.configured = true → s.fault = false → s.tmS = 0#32 →
    (i = .tmAdvance ∨ i = .tmRevert ∨ i = .tmPeekNext ∨ i = .tmPeekPrev ∨ ∃ b d, i = .tmBit b d ∧ d ≠ .stopped) →
    exec i s = .next { s with fault := true, lastErr := .lfsrZero }) ∧
  (∀ s : State, s.configured = true → s.fault = false → s.act.Legal → s.encSE = 0#32 → encCrosses s = true →
    exec .encSample s = .next { s with fault := true, lastErr := .lfsrZero }) ∧
  ∀ (s : State) (a b : Sample), s.configured = true → s.fault = false → s.map.s = 0#32 →
    (channelStep s.act s.act.f0.toNat s.ch0 a).xing = true → (channelStep s.act s.act.f0.toNat s.ch0 a).hasBit = true →
    phaseStep s.act s.dir (channelStep s.act s.act.f0.toNat s.ch0 a) (channelStep s.act s.act.f1.toNat s.ch1 b) ≠ .stopped →
    exec (.decSample a b) s = .next { s with fault := true, lastErr := .lfsrZero }

/-- R342: a failing command writes LAST_ERR and nothing else, but for FAULT on LFSR_ZERO and CONFIGURED on a failing
CONFIGURE; an illegal word is such a command too. -/
def Obligations.FailingCommandIsAllOrNothing : Prop :=
  (∀ (i : Instr) (s t : State), exec i s = .next t → t.lastErr ≠ .ok →
    (i ≠ .configure → t = { s with lastErr := t.lastErr, fault := s.fault || decide (t.lastErr = .lfsrZero) }) ∧
    (i = .configure → t = { s with lastErr := t.lastErr, configured := false })) ∧
  ∀ (w : CmdWord) (e : Illegal), decode w = .error e → Rejected w

/-- The "raised by" column of R340: every well-formed command reports one of the codes listed for it. -/
def Obligations.CommandsReportTheirCodes : Prop :=
  ∀ (i : Instr) (s : State), i.wellFormed = true → ∃ t : State, exec i s = .next t ∧ t.lastErr ∈ codesOf i

/-- R32: CONFIGURED is 1 exactly when a CONFIGURE has succeeded and none has failed since. -/
def Obligations.ConfiguredFollowsConfigure : Prop :=
  ∀ (i : Instr) (s t : State), exec i s = .next t →
    (i ≠ .configure → t.configured = s.configured) ∧ (i = .configure → (t.configured = true ↔ t.lastErr = .ok))

/-- R34, R92: the active registers change only by CONFIGURE, to the staged ones; the staged and live ones only by
CFG_WRITE, and a staged write changes nothing else. -/
def Obligations.ConfigurationIsDoubleBuffered : Prop :=
  ∀ (i : Instr) (s t : State), exec i s = .next t →
    (t.act ≠ s.act → i = .configure ∧ t.lastErr = .ok ∧ t.act = s.staged) ∧
    (t.staged ≠ s.staged ∨ t.encSpeed ≠ s.encSpeed ∨ t.encDir ≠ s.encDir ∨ t.encAmp ≠ s.encAmp →
      ∃ idx v, i = .cfgWrite idx v ∧ t.lastErr = .ok) ∧
    ∀ idx v, i = .cfgWrite idx v → idx.toNat ≤ 0x0F → t = { s with staged := t.staged, lastErr := t.lastErr }

/-- R82, R372: the decoder session, the encoder session, the test generator and the test filter are each changed only by
their own commands and by CONFIGURE; MAP_LOAD leaves the channels, DIR and T alone. -/
def Obligations.UnitsChangeOnlyByTheirCommands : Prop :=
  ∀ (i : Instr) (s t : State), exec i s = .next t →
    (i ≠ .configure → (∀ a b, i ≠ .decSample a b) →
      t.ch0 = s.ch0 ∧ t.ch1 = s.ch1 ∧ t.dir = s.dir ∧ t.decT = s.decT ∧
      ((∀ p, i ≠ .mapLoad p) → t.map = s.map ∧ t.sync = s.sync)) ∧
    (i ≠ .configure → i ≠ .encSample → (∀ p, i ≠ .encLoad p) → t.encSE = s.encSE ∧ t.encPH = s.encPH) ∧
    (i ≠ .configure → (∀ v, i ≠ .tmLoad v) → i ≠ .tmAdvance → i ≠ .tmRevert → (∀ b d, i ≠ .tmBit b d) → t.tmS = s.tmS) ∧
    ((∀ a, i ≠ .tfConfig a) → t.tfAlpha = s.tfAlpha ∧ ((∀ x, i ≠ .tfUpdate x) → t.tf = s.tf)) ∧
    t.inputs = s.inputs

/-- R82: DEC_SAMPLE learns nothing of the encoder, the test units, the staged registers or the live controls: two states
that agree on the rest give frames that agree on the whole decoder session and the results. -/
def Obligations.DecoderIgnoresOtherUnits : Prop :=
  ∀ (s : State) (a b : Sample) (stg : ConfigRegs) (spd : Word) (d : Direction) (amp : BitVec 15) (se ph tm al : Word)
    (f : FilterState), ∃ t : State, exec (.decSample a b) s = .next t ∧
      exec (.decSample a b)
        { s with staged := stg, encSpeed := spd, encDir := d, encAmp := amp, encSE := se, encPH := ph, tmS := tm,
                 tf := f, tfAlpha := al } =
        .next { t with staged := stg, encSpeed := spd, encDir := d, encAmp := amp, encSE := se, encPH := ph, tmS := tm,
                       tf := f, tfAlpha := al }

/-- R30: RES0, RES1 and RES2 are never operands: other results before the command change nothing after it but the
results that it does not write. -/
def Obligations.ResultsAreNeverOperands : Prop :=
  ∀ (i : Instr) (s : State) (r0 r1 r2 : Word), ∃ t : State, exec i s = .next t ∧
    ∃ q0 q1 q2 : Word,
      exec i { s with res0 := r0, res1 := r1, res2 := r2 } = .next { t with res0 := q0, res1 := q1, res2 := q2 } ∧
      (q0 = t.res0 ∨ q0 = r0 ∧ t.res0 = s.res0) ∧ (q1 = t.res1 ∨ q1 = r1 ∧ t.res1 = s.res1) ∧
      (q2 = t.res2 ∨ q2 = r2 ∧ t.res2 = s.res2)

/-- R87: READ has no effect but RES0 and LAST_ERR, and repeating it changes nothing more; STATUS read again shows
LAST_ERR = 0. -/
def Obligations.ReadHasNoSideEffect : Prop :=
  ∀ (s : State) (i : BitVec 8), ∃ t : State, exec (.read i) s = .next t ∧
    t = { s with res0 := t.res0, lastErr := t.lastErr } ∧
    (i ≠ 0x20#8 → exec (.read i) t = .next t) ∧
    (i = 0x20#8 → exec (.read i) t = .next { t with res0 := t.res0 &&& 0xFFFFF0FF#32 })

/-! ## Test filter -/

/-- R133. -/
def Obligations.TfConfigStoresFactor : Prop :=
  (∀ (s : State) (a : Word), 1 ≤ a.toNat → a.toNat ≤ 65536 →
    exec (.tfConfig a) s = .next { s with tfAlpha := a, tf := ⟨0#32, false⟩, res0 := a, lastErr := .ok }) ∧
  (∀ (s : State) (a : Word), a.toNat = 0 ∨ 65536 < a.toNat →
    exec (.tfConfig a) s = .next { s with lastErr := .invalidParameter }) ∧
  ∀ w : CmdWord, opcOf w = 0x0E → argOf w ≠ 0 ∨ rsvOf w ≠ 0 → Rejected w

/-- R134, with FilterStep's values from R130. -/
def Obligations.TfUpdateFiltersInput : Prop :=
  (∀ (s : State) (x : Word), exec (.tfUpdate x) s = .next
    { s with
      tf := ⟨BitVec.ofInt 32 (filterValue s.tf x.toInt s.tfAlpha.toNat), true⟩
      res0 := BitVec.ofInt 32 (filterValue s.tf x.toInt s.tfAlpha.toNat)
      lastErr := .ok }) ∧
  ∀ w : CmdWord, opcOf w = 0x0F → argOf w ≠ 0 ∨ rsvOf w ≠ 0 → Rejected w

/-- R135, with FilterPreview's value from R131. -/
def Obligations.TfPreviewLeavesFilter : Prop :=
  (∀ (s : State) (x : Word), exec (.tfPreview x) s = .next
    { s with res0 := BitVec.ofInt 32 (filterValue s.tf x.toInt s.tfAlpha.toNat), lastErr := .ok }) ∧
  ∀ w : CmdWord, opcOf w = 0x10 → argOf w ≠ 0 ∨ rsvOf w ≠ 0 → Rejected w

/-- R130: the step's exact value, that it lies between S and x, and that it fits the register. -/
def Obligations.FilterStepStaysBetween : Prop :=
  ∀ (f : FilterState) (x : Int) (a : Nat), 1 ≤ a → a ≤ 65536 → -(2 ^ 31) ≤ x → x < 2 ^ 31 →
    (filterStep f x a).init = true ∧
    (f.init = false → (filterStep f x a).s.toInt = x) ∧
    (f.init = true → (filterStep f x a).s.toInt = filterNext f.s.toInt x a ∧
      min f.s.toInt x ≤ (filterStep f x a).s.toInt ∧ (filterStep f x a).s.toInt ≤ max f.s.toInt x)

/-- R136: with a constant input the distance strictly decreases while it is not 0; it is 0 within |S0 - v| steps, and
within one step when A = 65536; A = 32768 halves it, rounded toward zero. -/
def Obligations.FilterConvergesToConstantInput : Prop :=
  ∀ (f : FilterState) (v : Int) (a : Nat), 1 ≤ a → a ≤ 65536 → -(2 ^ 31) ≤ v → v < 2 ^ 31 → f.init = true →
    (f.s.toInt ≠ v → ((filterStep f v a).s.toInt - v).natAbs < (f.s.toInt - v).natAbs) ∧
    (∀ n : Nat, (f.s.toInt - v).natAbs ≤ n → ((fun g => filterStep g v a)^[n] f).s.toInt = v) ∧
    (a = 65536 → (filterStep f v a).s.toInt = v) ∧
    (a = 32768 → (filterStep f v a).s.toInt - v = Int.tdiv (f.s.toInt - v) 2)

/-! ## Test generator -/

/-- R155. -/
def Obligations.TmLoadLoadsGenerator : Prop :=
  (∀ (s : State) (v : Word), s.configured = true → s.fault = false → s.act.InRange v →
    exec (.tmLoad v) s = .next { s with tmS := v, res0 := v, lastErr := .ok }) ∧
  (∀ (s : State) (v : Word), s.configured = true → s.fault = false → ¬ s.act.InRange v →
    exec (.tmLoad v) s = .next { s with lastErr := .invalidParameter }) ∧
  (∀ v : Word, Gated (.tmLoad v)) ∧
  ∀ w : CmdWord, opcOf w = 0x08 → argOf w ≠ 0 ∨ rsvOf w ≠ 0 → Rejected w

/-- R156 and R158, with Advance's values from R150: the step stored, and the step reported only. -/
def Obligations.TmAdvanceAndPeekNext : Prop :=
  (∀ s : State, Ready s →
    exec .tmAdvance s = .next
      { s with
        tmS := BitVec.ofNat 32 (advanceNext s.act s.tmS)
        res0 := BitVec.ofNat 32 (advanceNext s.act s.tmS)
        res1 := BitVec.ofNat 32 (one (advanceBit s.act s.tmS))
        res2 := BitVec.ofNat 32 (s.tmS.toNat % 2)
        lastErr := .ok } ∧
    exec .tmPeekNext s = .next
      { s with
        res0 := BitVec.ofNat 32 (advanceNext s.act s.tmS)
        res1 := BitVec.ofNat 32 (one (advanceBit s.act s.tmS))
        res2 := BitVec.ofNat 32 (s.tmS.toNat % 2)
        lastErr := .ok }) ∧
  (∀ s : State, s.configured = true → s.fault = false → s.tmS = 0#32 →
    exec .tmAdvance s = .next { s with fault := true, lastErr := .lfsrZero } ∧
    exec .tmPeekNext s = .next { s with fault := true, lastErr := .lfsrZero }) ∧
  Gated .tmAdvance ∧ Gated .tmPeekNext ∧
  (∀ w : CmdWord, opcOf w = 0x09 → w ≠ 0x9#64 → Rejected w) ∧
  ∀ w : CmdWord, opcOf w = 0x0B → w ≠ 0xB#64 → Rejected w

/-- R157 and R159, with Revert's values from R151: the step stored, and the step reported only. -/
def Obligations.TmRevertAndPeekPrev : Prop :=
  (∀ s : State, Ready s →
    exec .tmRevert s = .next
      { s with
        tmS := BitVec.ofNat 32 (revertNext s.act s.tmS)
        res0 := BitVec.ofNat 32 (revertNext s.act s.tmS)
        res1 := BitVec.ofNat 32 (one (revertBit s.act s.tmS))
        res2 := BitVec.ofNat 32 (one (topBit s.act s.tmS))
        lastErr := .ok } ∧
    exec .tmPeekPrev s = .next
      { s with
        res0 := BitVec.ofNat 32 (revertNext s.act s.tmS)
        res1 := BitVec.ofNat 32 (one (revertBit s.act s.tmS))
        res2 := BitVec.ofNat 32 (one (topBit s.act s.tmS))
        lastErr := .ok }) ∧
  (∀ s : State, s.configured = true → s.fault = false → s.tmS = 0#32 →
    exec .tmRevert s = .next { s with fault := true, lastErr := .lfsrZero } ∧
    exec .tmPeekPrev s = .next { s with fault := true, lastErr := .lfsrZero }) ∧
  Gated .tmRevert ∧ Gated .tmPeekPrev ∧
  (∀ w : CmdWord, opcOf w = 0x0A → w ≠ 0xA#64 → Rejected w) ∧
  ∀ w : CmdWord, opcOf w = 0x0C → w ≠ 0xC#64 → Rejected w

/-- R153: Advance and Revert are inverse on [1, 2^W - 1] and keep it. -/
def Obligations.AdvanceAndRevertAreInverse : Prop :=
  ∀ (p : ConfigRegs) (st : Word), p.FormatLegal → p.InRange st →
    (∃ g h : GenStep, advance p st = .ok g ∧ p.InRange g.next ∧ revert p g.next = .ok h ∧ h.next = st) ∧
    (∃ g h : GenStep, revert p st = .ok g ∧ p.InRange g.next ∧ advance p g.next = .ok h ∧ h.next = st)

/-! ## Bitstream mapper -/

/-- R183, with MapperStep's values from R182. -/
def Obligations.TmBitStepsAndCompares : Prop :=
  (∀ (s : State) (b : Bool), Ready s →
    exec (.tmBit b .forward) s = .next
      { s with
        tmS := BitVec.ofNat 32 (advanceNext s.act s.tmS)
        res0 := BitVec.ofNat 32 (advanceNext s.act s.tmS)
        res1 := BitVec.ofNat 32
          (one (decide (b = advanceBit s.act s.tmS)) + 2 * one (decide (advanceNext s.act s.tmS < s.act.valid.toNat)))
        lastErr := .ok } ∧
    exec (.tmBit b .backward) s = .next
      { s with
        tmS := BitVec.ofNat 32 (revertNext s.act s.tmS)
        res0 := BitVec.ofNat 32 (revertNext s.act s.tmS)
        res1 := BitVec.ofNat 32
          (one (decide (b = topBit s.act s.tmS)) + 2 * one (decide (revertNext s.act s.tmS < s.act.valid.toNat)))
        lastErr := .ok }) ∧
  (∀ (s : State) (b : Bool) (d : Direction), d ≠ .stopped → s.configured = true → s.fault = false → s.tmS = 0#32 →
    exec (.tmBit b d) s = .next { s with fault := true, lastErr := .lfsrZero }) ∧
  (∀ (b : Bool) (d : Direction), d ≠ .stopped → Gated (.tmBit b d)) ∧
  ∀ w : CmdWord, opcOf w = 0x0D →
    argOf w / 2 % 4 = 0 ∨ argOf w / 2 % 4 = 3 ∨ argOf w / 8 ≠ 0 ∨ rsvOf w ≠ 0 ∨ dataOf w ≠ 0 → Rejected w

/-- R184. -/
def Obligations.MapLoadResetsMapper : Prop :=
  (∀ (s : State) (p : Word), s.configured = true → s.fault = false → s.act.InRange p →
    exec (.mapLoad p) s = .next
      { s with
        map := ⟨p, 0#32, 0#6, .stopped⟩
        sync := ⟨false, 0#8, false⟩
        res0 := p
        res1 := BitVec.ofNat 32 (one (decide (p.toNat < s.act.valid.toNat)))
        lastErr := .ok }) ∧
  (∀ (s : State) (p : Word), s.configured = true → s.fault = false → ¬ s.act.InRange p →
    exec (.mapLoad p) s = .next { s with lastErr := .invalidParameter }) ∧
  (∀ p : Word, Gated (.mapLoad p)) ∧
  ∀ w : CmdWord, opcOf w = 0x05 → argOf w ≠ 0 ∨ rsvOf w ≠ 0 → Rejected w

/-- R185: n forward MapperSteps and n backward ones return to S, in either order, whatever the bits. -/
def Obligations.StepCountLaw : Prop :=
  ∀ (p : ConfigRegs) (st : Word) (bs cs : List Bool), p.FormatLegal → p.InRange st → bs.length = cs.length →
    (∃ mid : Word, mapperRun p .forward bs st = .ok mid ∧ mapperRun p .backward cs mid = .ok st) ∧
    (∃ mid : Word, mapperRun p .backward bs st = .ok mid ∧ mapperRun p .forward cs mid = .ok st)

/-! ## Channel analysis -/

/-- R201 to R206 and R213: counter, baseline, side, crossing flag and bookkeeping of one channel's step. -/
def Obligations.ChannelSideAndCrossing : Prop :=
  ∀ (p : ConfigRegs) (f : Nat) (c : Channel) (smp : Sample), 1 ≤ p.aBase.toNat → p.aBase.toNat ≤ 65536 →
    let o := channelStep p f c smp
    let x : Int := smp.toInt * 65536
    let base : Int := filterValue c.base x p.aBase.toNat
    o.ch.base.init = true ∧ o.ch.base.s.toInt = base ∧
    o.ch.side = (if x > base + (p.hyst.toNat : Int) * 65536 then .above
      else if x < base - (p.hyst.toNat : Int) * 65536 then .below else c.side) ∧
    (o.xing = true ↔ c.side ≠ .unknown ∧ o.ch.side ≠ c.side) ∧
    o.hadx = c.havex ∧ o.ch.havex = (c.havex || o.xing) ∧
    o.ch.cnt.toNat = (if o.xing then 0 else counted c) ∧ o.agePrev.toNat = (if o.xing then counted c else 0)

/-- R207: the first crossing gives no width, no bit and no pitch input; nor does a sample with no crossing give a width
or a bit. -/
def Obligations.FirstCrossingGivesNoBit : Prop :=
  ∀ (p : ConfigRegs) (f : Nat) (c : Channel) (smp : Sample),
    let o := channelStep p f c smp
    (o.xing = true → c.havex = false →
      o.hasBit = false ∧ o.bit = false ∧ o.ch.pw = c.pw ∧ o.ch.pitch = c.pitch ∧ o.ch.havex = true ∧ o.ch.cnt = 0#32) ∧
    (o.xing = false → o.hasBit = false ∧ o.bit = false ∧ o.ch.pw = c.pw ∧ o.ch.havex = c.havex)

/-- R208 to R211: width, bit and pitch of a crossing that has a previous one. -/
def Obligations.LaterCrossingGivesWidthBitPitch : Prop :=
  ∀ (p : ConfigRegs) (f : Nat) (c : Channel) (smp : Sample), 1 ≤ f → 1 ≤ p.aPitch.toNat → p.aPitch.toNat ≤ 65536 →
    let o := channelStep p f c smp
    let w := counted c
    let ref : Int := if c.pitch.init = true ∧ c.pitch.s ≠ 0#32 then c.pitch.s.toInt else 65536
    let r : Nat := min (p.sr.toNat * 65536 / (2 * f * w)) (2 ^ 31 - 1)
    o.xing = true → c.havex = true →
      1 ≤ w ∧ o.ch.pw.toNat = w ∧ o.hasBit = true ∧
      (o.bit = true ↔ (w : Int) * 2 * f * ref > (p.bitThr.toNat : Int) * p.sr.toNat) ∧
      o.ch.pitch.init = true ∧ o.ch.pitch.s.toInt = filterValue c.pitch r p.aPitch.toNat ∧
      (0 ≤ c.pitch.s.toInt → 0 ≤ o.ch.pitch.s.toInt)

/-- R212: with no crossing the pitch takes input 0 once CNT has reached STOP_TIMEOUT, and is unchanged before. -/
def Obligations.StopDecayFeedsZero : Prop :=
  ∀ (p : ConfigRegs) (f : Nat) (c : Channel) (smp : Sample), 1 ≤ p.aPitch.toNat → p.aPitch.toNat ≤ 65536 →
    let o := channelStep p f c smp
    o.xing = false →
      (p.stopTimeout.toNat ≤ counted c →
        o.ch.pitch.init = true ∧ o.ch.pitch.s.toInt = filterValue c.pitch 0 p.aPitch.toNat) ∧
      (counted c < p.stopTimeout.toNat → o.ch.pitch = c.pitch)

/-! ## Decoder -/

/-- R241 to R243: the direction of a frame from the two channels' outputs. -/
def Obligations.PhaseAnalyzerSelectsDirection : Prop :=
  ∀ (p : ConfigRegs) (old : Direction) (a b : ChannelOut),
    (a.xing = true → b.xing = true → phaseStep p old a b = .stopped) ∧
    (a.xing = true → b.xing = false →
      (Reliable a b → b.ch.side ≠ a.ch.side → phaseStep p old a b = .forward) ∧
      (Reliable a b → b.ch.side = a.ch.side → phaseStep p old a b = .backward) ∧
      (¬ Reliable a b → phaseStep p old a b = .stopped)) ∧
    (a.xing = false → b.xing = true →
      (Reliable b a → a.ch.side ≠ b.ch.side → phaseStep p old a b = .backward) ∧
      (Reliable b a → a.ch.side = b.ch.side → phaseStep p old a b = .forward) ∧
      (¬ Reliable b a → phaseStep p old a b = .stopped)) ∧
    (a.xing = false → b.xing = false →
      (p.stopTimeout.toNat ≤ a.ch.cnt.toNat → p.stopTimeout.toNat ≤ b.ch.cnt.toNat → phaseStep p old a b = .stopped) ∧
      (a.ch.cnt.toNat < p.stopTimeout.toNat ∨ b.ch.cnt.toNat < p.stopTimeout.toNat → phaseStep p old a b = old))

/-- R244: when the mapper is fed, what the window becomes, when S is stepped and when it is reloaded. -/
def Obligations.MapperFeedStepsOrReloads : Prop :=
  ∀ (p : ConfigRegs) (m : Mapper) (tracking : Bool) (o : ChannelOut), p.FormatLegal → p.InRange m.s →
    m.r.toNat < 2 ^ p.width.toNat → m.rcnt.toNat ≤ p.width.toNat →
    (∀ d : Direction, ¬ (o.xing = true ∧ o.hasBit = true) →
      mapperFeed p m tracking d o = .ok ⟨m, false, false, false, false⟩) ∧
    (o.xing = true → o.hasBit = true →
      mapperFeed p m tracking .stopped o = .ok ⟨{ m with rcnt := 0#6, rdir := .stopped }, true, false, false, false⟩) ∧
    (o.xing = true → o.hasBit = true → ∃ f : FeedOut, mapperFeed p m tracking .forward o = .ok f ∧
      f.fed = true ∧ f.stepped = true ∧ f.map.rdir = .forward ∧
      f.map.r.toNat = m.r.toNat / 2 + one o.bit * 2 ^ (p.width.toNat - 1) ∧
      f.map.rcnt.toNat = min ((if m.rdir = .forward then m.rcnt.toNat else 0) + 1) p.width.toNat ∧
      f.isMatch = decide (o.bit = advanceBit p m.s) ∧
      (f.reloaded = true ↔
        f.isMatch = false ∧ tracking = false ∧ f.map.rcnt.toNat = p.width.toNat ∧ f.map.r ≠ 0#32) ∧
      f.map.s = (if f.reloaded then f.map.r else BitVec.ofNat 32 (advanceNext p m.s))) ∧
    (o.xing = true → o.hasBit = true → ∃ f : FeedOut, mapperFeed p m tracking .backward o = .ok f ∧
      f.fed = true ∧ f.stepped = true ∧ f.map.rdir = .backward ∧
      f.map.r.toNat = 2 * m.r.toNat % 2 ^ p.width.toNat + one o.bit ∧
      f.map.rcnt.toNat = min ((if m.rdir = .backward then m.rcnt.toNat else 0) + 1) p.width.toNat ∧
      f.isMatch = decide (o.bit = topBit p m.s) ∧
      (f.reloaded = true ↔
        f.isMatch = false ∧ tracking = false ∧ f.map.rcnt.toNat = p.width.toNat ∧ f.map.r ≠ 0#32) ∧
      (f.reloaded = true → revertTimes p p.width.toNat f.map.r = .ok f.map.s) ∧
      (f.reloaded = false → f.map.s = BitVec.ofNat 32 (revertNext p m.s)))

/-- R245: the sync status after a frame that fed the mapper; unchanged after one that did not. -/
def Obligations.SyncUpdateCountsGoodBits : Prop :=
  ∀ (p : ConfigRegs) (y : Sync) (f : FeedOut),
    (f.fed = false → syncStep p y f = y) ∧
    (f.fed = true → f.isMatch = true → f.map.s.toNat < p.valid.toNat →
      (syncStep p y f).run.toNat = min (y.run.toNat + 1) 255 ∧ (syncStep p y f).lastMatch = true ∧
      ((syncStep p y f).tracking = true ↔ p.syncLen.toNat ≤ min (y.run.toNat + 1) 255 ∨ y.tracking = true)) ∧
    (f.fed = true → f.isMatch = false ∨ p.valid.toNat ≤ f.map.s.toNat →
      syncStep p y f = ⟨false, 0#8, f.isMatch⟩)

/-- R240: from every configured state the invariants of R47 allow, DEC_SAMPLE completes with the values of its stages and
changes nothing else; the gating and the words rejected. -/
def Obligations.DecSampleCompletesWithItsStages : Prop :=
  (∀ (s : State) (a b : Sample), Ready s →
    let oa := channelStep s.act s.act.f0.toNat s.ch0 a
    let ob := channelStep s.act s.act.f1.toNat s.ch1 b
    let d := phaseStep s.act s.dir oa ob
    ∃ f : FeedOut, mapperFeed s.act s.map s.sync.tracking d oa = .ok f ∧
      exec (.decSample a b) s = .next
        { s with
          decT := BitVec.ofNat 32 (s.decT.toNat + 1)
          ch0 := oa.ch
          ch1 := ob.ch
          dir := d
          map := f.map
          sync := syncStep s.act s.sync f
          res0 := f.map.s
          res1 := frameResult s.act oa ob d (syncStep s.act s.sync f) f
          res2 := BitVec.ofInt 32 (meanPitch oa.ch ob.ch)
          lastErr := .ok }) ∧
  (∀ a b : Sample, Gated (.decSample a b)) ∧
  ∀ w : CmdWord, opcOf w = 0x04 → argOf w ≠ 0 ∨ rsvOf w ≠ 0 → Rejected w

/-- R246: the fields of RES1 after a frame, and RES0 and RES2. -/
def Obligations.DecSampleResultFields : Prop :=
  ∀ (s : State) (a b : Sample), Ready s →
    let oa := channelStep s.act s.act.f0.toNat s.ch0 a
    let ob := channelStep s.act s.act.f1.toNat s.ch1 b
    ∃ (f : FeedOut) (t : State), mapperFeed s.act s.map s.sync.tracking t.dir oa = .ok f ∧
      exec (.decSample a b) s = .next t ∧ t.res0 = t.map.s ∧
      t.res1.getLsbD 0 = oa.xing ∧ t.res1.getLsbD 1 = oa.hasBit ∧ t.res1.getLsbD 2 = (oa.hasBit && oa.bit) ∧
      t.res1.getLsbD 3 = ob.xing ∧ t.res1.getLsbD 4 = ob.hasBit ∧ t.res1.getLsbD 5 = (ob.hasBit && ob.bit) ∧
      t.res1.extractLsb' 6 2 = t.dir.code ∧ t.res1.getLsbD 8 = t.sync.tracking ∧
      t.res1.getLsbD 9 = decide (t.map.s.toNat < t.act.valid.toNat) ∧ t.res1.getLsbD 10 = f.stepped ∧
      t.res1.getLsbD 11 = f.isMatch ∧ t.res1.getLsbD 12 = f.reloaded ∧ t.res1.extractLsb' 13 19 = 0#19 ∧
      t.res2.toInt = meanPitch t.ch0 t.ch1

/-- R244, "Why the reload is right": W bits read forward make the window equal to the state reached; W bits read backward
make it equal to the state the first was read from, and W reverts of it are the state reached. -/
def Obligations.FullWindowIsGeneratorState : Prop :=
  ∀ (p : ConfigRegs) (st r : Word), p.FormatLegal → p.InRange st → r.toNat < 2 ^ p.width.toNat →
    (∃ u : Word, forwardWindow p p.width.toNat (st, r) = .ok (u, u)) ∧
    (∃ u : Word, backwardWindow p p.width.toNat (st, r) = .ok (u, st) ∧ revertTimes p p.width.toNat st = .ok u)

/-! ## Synthesizer -/

/-- R281. -/
def Obligations.EncLoadSeedsEncoder : Prop :=
  (∀ (s : State) (p : Word), s.configured = true → s.fault = false → s.act.InRange p →
    exec (.encLoad p) s = .next { s with encSE := p, encPH := 0#32, res0 := p, lastErr := .ok }) ∧
  (∀ (s : State) (p : Word), s.configured = true → s.fault = false → ¬ s.act.InRange p →
    exec (.encLoad p) s = .next { s with lastErr := .invalidParameter }) ∧
  (∀ p : Word, Gated (.encLoad p)) ∧
  ∀ w : CmdWord, opcOf w = 0x07 → argOf w ≠ 0 ∨ rsvOf w ≠ 0 → Rejected w

/-- R280, with Tri, EncBit and EncInc from R282 to R284. -/
def Obligations.EncSampleEmitsFrameAndMoves : Prop :=
  (∀ s : State, Ready s → exec .encSample s = .next
    { s with
      encSE := encNextState s
      encPH := encNextPhase s
      res0 := BitVec.ofNat 32
        (halfWord (triangle s.encPH.toNat s.encAmp.toNat) +
          65536 * halfWord (triangle ((s.encPH.toNat + 3 * 2 ^ 30) % 2 ^ 32) s.encAmp.toNat))
      res1 := BitVec.ofNat 32 (one (advanceBit s.act s.encSE) + 2 * one (encCrosses s))
      res2 := encNextState s
      lastErr := .ok }) ∧
  Gated .encSample ∧
  ∀ w : CmdWord, opcOf w = 0x06 → w ≠ 0x6#64 → Rejected w

/-- R282: the triangle wave's values, its range and its two symmetries. -/
def Obligations.TriangleWaveShape : Prop :=
  ∀ (ph : Word) (amp : Nat), amp ≤ 32767 →
    tri ph amp = triangle ph.toNat amp ∧ -(amp : Int) ≤ tri ph amp ∧ tri ph amp ≤ amp ∧
    (BitVec.ofInt 16 (tri ph amp)).toInt = tri ph amp ∧ tri (-ph) amp = -tri ph amp ∧
    tri (0x80000000#32 + ph) amp = -tri (0x80000000#32 - ph) amp ∧
    tri 0x00000000#32 amp = 0 ∧ tri 0x80000000#32 amp = 0 ∧ tri 0x40000000#32 amp = amp ∧ tri 0xC0000000#32 amp = -(amp : Int)

/-- R285: a sample crosses at most one boundary (multiple of 2^31), and SE steps exactly when it crosses one. -/
def Obligations.EncoderStepsOncePerBoundary : Prop :=
  ∀ s : State, Ready s → ∃ (t : State) (inc : Nat), exec .encSample s = .next t ∧ inc ≤ 2 ^ 30 ∧
    (s.encDir = .stopped → t.encPH = s.encPH ∧ t.encSE = s.encSE) ∧
    (s.encDir = .forward →
      t.encPH.toNat = (s.encPH.toNat + inc) % 2 ^ 32 ∧
      ((s.encPH.toNat + inc) / 2 ^ 31 = s.encPH.toNat / 2 ^ 31 ∧ t.encSE = s.encSE ∨
       (s.encPH.toNat + inc) / 2 ^ 31 = s.encPH.toNat / 2 ^ 31 + 1 ∧ t.encSE.toNat = advanceNext s.act s.encSE)) ∧
    (s.encDir = .backward →
      (t.encPH.toNat : Int) = ((s.encPH.toNat : Int) - inc) % 2 ^ 32 ∧
      (((s.encPH.toNat : Int) - inc) / 2 ^ 31 = (s.encPH.toNat : Int) / 2 ^ 31 ∧ t.encSE = s.encSE ∨
       ((s.encPH.toNat : Int) - inc) / 2 ^ 31 = (s.encPH.toNat : Int) / 2 ^ 31 - 1 ∧
         t.encSE.toNat = revertNext s.act s.encSE))

/-! ## Invariants -/

/-- The reset state meets the invariants. -/
def Obligations.InvariantsHoldAtReset : Prop := State.reset.Inv ∧ State.reset.TrackingEarned

/-- R47: from every state that meets the invariants, every event gives a state that meets them. -/
def Obligations.InvariantsKeptByEveryStep : Prop := ∀ s t : State, s.Inv → step s = .next t → t.Inv

/-- R245: TRACKING is only ever 1 after SYNC_LEN good bits, with a valid position, whether or not the block is configured. -/
def Obligations.TrackingIsEarnedAlways : Prop :=
  ∀ s t : State, s.Inv → s.TrackingEarned → step s = .next t → t.TrackingEarned

/-- R47, over runs: whatever the host presents after reset, in any number of steps, FAULT stays 0 and no command ever
reports LFSR_ZERO or FAULTED. The list presented and its idle steps are the model's choice of log entry 1, the resets inside it
that of log entry 3. -/
def Obligations.NoCommandSequenceSetsFault : Prop :=
  ∀ (presented : List PortInput) (n : Nat), ∃ t : State,
    Host.Core.run Sys2Proof.core n { State.reset with inputs := presented } = .next t ∧
    t.fault = false ∧ t.lastErr ≠ .lfsrZero ∧ t.lastErr ≠ .faulted
end

