-- ==== Sys2Proof/Laws/State.lean ====
section
/-! SUPPORT. One lemma per field per named update of the state, each true by definition: later proofs read a field of an
updated state through these and never unfold the update. -/

namespace Sys2Proof.Machine

/-! ## `raiseError` -/

section
variable (e : ErrCode) (s : State)

@[simp] theorem raiseError_inputs : (raiseError e s).inputs = s.inputs := rfl
@[simp] theorem raiseError_configured : (raiseError e s).configured = s.configured := rfl
@[simp] theorem raiseError_fault : (raiseError e s).fault = ((e == .lfsrZero) || s.fault) := rfl
@[simp] theorem raiseError_lastErr : (raiseError e s).lastErr = e := rfl
@[simp] theorem raiseError_res0 : (raiseError e s).res0 = s.res0 := rfl
@[simp] theorem raiseError_res1 : (raiseError e s).res1 = s.res1 := rfl
@[simp] theorem raiseError_res2 : (raiseError e s).res2 = s.res2 := rfl
@[simp] theorem raiseError_staged : (raiseError e s).staged = s.staged := rfl
@[simp] theorem raiseError_act : (raiseError e s).act = s.act := rfl
@[simp] theorem raiseError_encSpeed : (raiseError e s).encSpeed = s.encSpeed := rfl
@[simp] theorem raiseError_encDir : (raiseError e s).encDir = s.encDir := rfl
@[simp] theorem raiseError_encAmp : (raiseError e s).encAmp = s.encAmp := rfl
@[simp] theorem raiseError_ch0 : (raiseError e s).ch0 = s.ch0 := rfl
@[simp] theorem raiseError_ch1 : (raiseError e s).ch1 = s.ch1 := rfl
@[simp] theorem raiseError_map : (raiseError e s).map = s.map := rfl
@[simp] theorem raiseError_dir : (raiseError e s).dir = s.dir := rfl
@[simp] theorem raiseError_sync : (raiseError e s).sync = s.sync := rfl
@[simp] theorem raiseError_decT : (raiseError e s).decT = s.decT := rfl
@[simp] theorem raiseError_encSE : (raiseError e s).encSE = s.encSE := rfl
@[simp] theorem raiseError_encPH : (raiseError e s).encPH = s.encPH := rfl
@[simp] theorem raiseError_tmS : (raiseError e s).tmS = s.tmS := rfl
@[simp] theorem raiseError_tf : (raiseError e s).tf = s.tf := rfl
@[simp] theorem raiseError_tfAlpha : (raiseError e s).tfAlpha = s.tfAlpha := rfl

end

/-! ## `succeed` -/

section
variable (s : State)

@[simp] theorem succeed_inputs : (succeed s).inputs = s.inputs := rfl
@[simp] theorem succeed_configured : (succeed s).configured = s.configured := rfl
@[simp] theorem succeed_fault : (succeed s).fault = s.fault := rfl
@[simp] theorem succeed_lastErr : (succeed s).lastErr = .ok := rfl
@[simp] theorem succeed_res0 : (succeed s).res0 = s.res0 := rfl
@[simp] theorem succeed_res1 : (succeed s).res1 = s.res1 := rfl
@[simp] theorem succeed_res2 : (succeed s).res2 = s.res2 := rfl
@[simp] theorem succeed_staged : (succeed s).staged = s.staged := rfl
@[simp] theorem succeed_act : (succeed s).act = s.act := rfl
@[simp] theorem succeed_encSpeed : (succeed s).encSpeed = s.encSpeed := rfl
@[simp] theorem succeed_encDir : (succeed s).encDir = s.encDir := rfl
@[simp] theorem succeed_encAmp : (succeed s).encAmp = s.encAmp := rfl
@[simp] theorem succeed_ch0 : (succeed s).ch0 = s.ch0 := rfl
@[simp] theorem succeed_ch1 : (succeed s).ch1 = s.ch1 := rfl
@[simp] theorem succeed_map : (succeed s).map = s.map := rfl
@[simp] theorem succeed_dir : (succeed s).dir = s.dir := rfl
@[simp] theorem succeed_sync : (succeed s).sync = s.sync := rfl
@[simp] theorem succeed_decT : (succeed s).decT = s.decT := rfl
@[simp] theorem succeed_encSE : (succeed s).encSE = s.encSE := rfl
@[simp] theorem succeed_encPH : (succeed s).encPH = s.encPH := rfl
@[simp] theorem succeed_tmS : (succeed s).tmS = s.tmS := rfl
@[simp] theorem succeed_tf : (succeed s).tf = s.tf := rfl
@[simp] theorem succeed_tfAlpha : (succeed s).tfAlpha = s.tfAlpha := rfl

end

/-! ## `mapLoaded` -/

section
variable (s : State) (pos : Word)

@[simp] theorem mapLoaded_inputs : (mapLoaded s pos).inputs = s.inputs := rfl
@[simp] theorem mapLoaded_configured : (mapLoaded s pos).configured = s.configured := rfl
@[simp] theorem mapLoaded_fault : (mapLoaded s pos).fault = s.fault := rfl
@[simp] theorem mapLoaded_lastErr : (mapLoaded s pos).lastErr = s.lastErr := rfl
@[simp] theorem mapLoaded_res0 : (mapLoaded s pos).res0 = pos := rfl
@[simp] theorem mapLoaded_res1 : (mapLoaded s pos).res1 = bitWord (isValid s.act pos) := rfl
@[simp] theorem mapLoaded_res2 : (mapLoaded s pos).res2 = s.res2 := rfl
@[simp] theorem mapLoaded_staged : (mapLoaded s pos).staged = s.staged := rfl
@[simp] theorem mapLoaded_act : (mapLoaded s pos).act = s.act := rfl
@[simp] theorem mapLoaded_encSpeed : (mapLoaded s pos).encSpeed = s.encSpeed := rfl
@[simp] theorem mapLoaded_encDir : (mapLoaded s pos).encDir = s.encDir := rfl
@[simp] theorem mapLoaded_encAmp : (mapLoaded s pos).encAmp = s.encAmp := rfl
@[simp] theorem mapLoaded_ch0 : (mapLoaded s pos).ch0 = s.ch0 := rfl
@[simp] theorem mapLoaded_ch1 : (mapLoaded s pos).ch1 = s.ch1 := rfl
@[simp] theorem mapLoaded_map : (mapLoaded s pos).map = ⟨pos, 0#32, 0#6, .stopped⟩ := rfl
@[simp] theorem mapLoaded_dir : (mapLoaded s pos).dir = s.dir := rfl
@[simp] theorem mapLoaded_sync : (mapLoaded s pos).sync = ⟨false, 0#8, false⟩ := rfl
@[simp] theorem mapLoaded_decT : (mapLoaded s pos).decT = s.decT := rfl
@[simp] theorem mapLoaded_encSE : (mapLoaded s pos).encSE = s.encSE := rfl
@[simp] theorem mapLoaded_encPH : (mapLoaded s pos).encPH = s.encPH := rfl
@[simp] theorem mapLoaded_tmS : (mapLoaded s pos).tmS = s.tmS := rfl
@[simp] theorem mapLoaded_tf : (mapLoaded s pos).tf = s.tf := rfl
@[simp] theorem mapLoaded_tfAlpha : (mapLoaded s pos).tfAlpha = s.tfAlpha := rfl

end

/-! ## `frameDone` -/

section
variable (s : State) (a b : Sample) (f : FeedOut)

@[simp] theorem frameDone_inputs : (frameDone s a b f).inputs = s.inputs := rfl
@[simp] theorem frameDone_configured : (frameDone s a b f).configured = s.configured := rfl
@[simp] theorem frameDone_fault : (frameDone s a b f).fault = s.fault := rfl
@[simp] theorem frameDone_lastErr : (frameDone s a b f).lastErr = s.lastErr := rfl
@[simp] theorem frameDone_res0 : (frameDone s a b f).res0 = f.map.s := rfl
@[simp] theorem frameDone_res1 :
    (frameDone s a b f).res1 = frameResult s.act (stepA s a) (stepB s b) (frameDir s a b) (syncStep s.act s.sync f) f := rfl
@[simp] theorem frameDone_res2 : (frameDone s a b f).res2 = speed (stepA s a).ch (stepB s b).ch := rfl
@[simp] theorem frameDone_staged : (frameDone s a b f).staged = s.staged := rfl
@[simp] theorem frameDone_act : (frameDone s a b f).act = s.act := rfl
@[simp] theorem frameDone_encSpeed : (frameDone s a b f).encSpeed = s.encSpeed := rfl
@[simp] theorem frameDone_encDir : (frameDone s a b f).encDir = s.encDir := rfl
@[simp] theorem frameDone_encAmp : (frameDone s a b f).encAmp = s.encAmp := rfl
@[simp] theorem frameDone_ch0 : (frameDone s a b f).ch0 = (stepA s a).ch := rfl
@[simp] theorem frameDone_ch1 : (frameDone s a b f).ch1 = (stepB s b).ch := rfl
@[simp] theorem frameDone_map : (frameDone s a b f).map = f.map := rfl
@[simp] theorem frameDone_dir : (frameDone s a b f).dir = frameDir s a b := rfl
@[simp] theorem frameDone_sync : (frameDone s a b f).sync = syncStep s.act s.sync f := rfl
@[simp] theorem frameDone_decT : (frameDone s a b f).decT = s.decT + 1#32 := rfl
@[simp] theorem frameDone_encSE : (frameDone s a b f).encSE = s.encSE := rfl
@[simp] theorem frameDone_encPH : (frameDone s a b f).encPH = s.encPH := rfl
@[simp] theorem frameDone_tmS : (frameDone s a b f).tmS = s.tmS := rfl
@[simp] theorem frameDone_tf : (frameDone s a b f).tf = s.tf := rfl
@[simp] theorem frameDone_tfAlpha : (frameDone s a b f).tfAlpha = s.tfAlpha := rfl

end

/-! ## `encDone` -/

section
variable (s : State) (m : EncMove)

@[simp] theorem encDone_inputs : (encDone s m).inputs = s.inputs := rfl
@[simp] theorem encDone_configured : (encDone s m).configured = s.configured := rfl
@[simp] theorem encDone_fault : (encDone s m).fault = s.fault := rfl
@[simp] theorem encDone_lastErr : (encDone s m).lastErr = s.lastErr := rfl
@[simp] theorem encDone_res0 : (encDone s m).res0 = encFrame s.encPH s.encAmp.toNat := rfl
@[simp] theorem encDone_res1 : (encDone s m).res1 = encWord (encBit s.act s.encSE) m.crossed := rfl
@[simp] theorem encDone_res2 : (encDone s m).res2 = m.se := rfl
@[simp] theorem encDone_staged : (encDone s m).staged = s.staged := rfl
@[simp] theorem encDone_act : (encDone s m).act = s.act := rfl
@[simp] theorem encDone_encSpeed : (encDone s m).encSpeed = s.encSpeed := rfl
@[simp] theorem encDone_encDir : (encDone s m).encDir = s.encDir := rfl
@[simp] theorem encDone_encAmp : (encDone s m).encAmp = s.encAmp := rfl
@[simp] theorem encDone_ch0 : (encDone s m).ch0 = s.ch0 := rfl
@[simp] theorem encDone_ch1 : (encDone s m).ch1 = s.ch1 := rfl
@[simp] theorem encDone_map : (encDone s m).map = s.map := rfl
@[simp] theorem encDone_dir : (encDone s m).dir = s.dir := rfl
@[simp] theorem encDone_sync : (encDone s m).sync = s.sync := rfl
@[simp] theorem encDone_decT : (encDone s m).decT = s.decT := rfl
@[simp] theorem encDone_encSE : (encDone s m).encSE = m.se := rfl
@[simp] theorem encDone_encPH : (encDone s m).encPH = m.ph := rfl
@[simp] theorem encDone_tmS : (encDone s m).tmS = s.tmS := rfl
@[simp] theorem encDone_tf : (encDone s m).tf = s.tf := rfl
@[simp] theorem encDone_tfAlpha : (encDone s m).tfAlpha = s.tfAlpha := rfl

end

/-! ## `configureDone` -/

section
variable (s : State)

@[simp] theorem configureDone_inputs : (configureDone s).inputs = s.inputs := rfl
@[simp] theorem configureDone_configured : (configureDone s).configured = true := rfl
@[simp] theorem configureDone_fault : (configureDone s).fault = false := rfl
@[simp] theorem configureDone_lastErr : (configureDone s).lastErr = s.lastErr := rfl
@[simp] theorem configureDone_res0 : (configureDone s).res0 = 0#32 := rfl
@[simp] theorem configureDone_res1 : (configureDone s).res1 = s.res1 := rfl
@[simp] theorem configureDone_res2 : (configureDone s).res2 = s.res2 := rfl
@[simp] theorem configureDone_staged : (configureDone s).staged = s.staged := rfl
@[simp] theorem configureDone_act : (configureDone s).act = s.staged := rfl
@[simp] theorem configureDone_encSpeed : (configureDone s).encSpeed = s.encSpeed := rfl
@[simp] theorem configureDone_encDir : (configureDone s).encDir = s.encDir := rfl
@[simp] theorem configureDone_encAmp : (configureDone s).encAmp = s.encAmp := rfl
@[simp] theorem configureDone_ch0 : (configureDone s).ch0 = .reset := rfl
@[simp] theorem configureDone_ch1 : (configureDone s).ch1 = .reset := rfl
@[simp] theorem configureDone_map : (configureDone s).map = ⟨s.staged.seed, 0#32, 0#6, .stopped⟩ := rfl
@[simp] theorem configureDone_dir : (configureDone s).dir = .stopped := rfl
@[simp] theorem configureDone_sync : (configureDone s).sync = ⟨false, 0#8, false⟩ := rfl
@[simp] theorem configureDone_decT : (configureDone s).decT = 0#32 := rfl
@[simp] theorem configureDone_encSE : (configureDone s).encSE = s.staged.seed := rfl
@[simp] theorem configureDone_encPH : (configureDone s).encPH = 0#32 := rfl
@[simp] theorem configureDone_tmS : (configureDone s).tmS = s.staged.seed := rfl
@[simp] theorem configureDone_tf : (configureDone s).tf = s.tf := rfl
@[simp] theorem configureDone_tfAlpha : (configureDone s).tfAlpha = s.tfAlpha := rfl

end

/-! ## `hardwareReset` -/

section
variable (s : State)

@[simp] theorem hardwareReset_inputs : (hardwareReset s).inputs = s.inputs := rfl
@[simp] theorem hardwareReset_configured : (hardwareReset s).configured = State.reset.configured := rfl
@[simp] theorem hardwareReset_fault : (hardwareReset s).fault = State.reset.fault := rfl
@[simp] theorem hardwareReset_lastErr : (hardwareReset s).lastErr = State.reset.lastErr := rfl
@[simp] theorem hardwareReset_res0 : (hardwareReset s).res0 = State.reset.res0 := rfl
@[simp] theorem hardwareReset_res1 : (hardwareReset s).res1 = State.reset.res1 := rfl
@[simp] theorem hardwareReset_res2 : (hardwareReset s).res2 = State.reset.res2 := rfl
@[simp] theorem hardwareReset_staged : (hardwareReset s).staged = State.reset.staged := rfl
@[simp] theorem hardwareReset_act : (hardwareReset s).act = State.reset.act := rfl
@[simp] theorem hardwareReset_encSpeed : (hardwareReset s).encSpeed = State.reset.encSpeed := rfl
@[simp] theorem hardwareReset_encDir : (hardwareReset s).encDir = State.reset.encDir := rfl
@[simp] theorem hardwareReset_encAmp : (hardwareReset s).encAmp = State.reset.encAmp := rfl
@[simp] theorem hardwareReset_ch0 : (hardwareReset s).ch0 = State.reset.ch0 := rfl
@[simp] theorem hardwareReset_ch1 : (hardwareReset s).ch1 = State.reset.ch1 := rfl
@[simp] theorem hardwareReset_map : (hardwareReset s).map = State.reset.map := rfl
@[simp] theorem hardwareReset_dir : (hardwareReset s).dir = State.reset.dir := rfl
@[simp] theorem hardwareReset_sync : (hardwareReset s).sync = State.reset.sync := rfl
@[simp] theorem hardwareReset_decT : (hardwareReset s).decT = State.reset.decT := rfl
@[simp] theorem hardwareReset_encSE : (hardwareReset s).encSE = State.reset.encSE := rfl
@[simp] theorem hardwareReset_encPH : (hardwareReset s).encPH = State.reset.encPH := rfl
@[simp] theorem hardwareReset_tmS : (hardwareReset s).tmS = State.reset.tmS := rfl
@[simp] theorem hardwareReset_tf : (hardwareReset s).tf = State.reset.tf := rfl
@[simp] theorem hardwareReset_tfAlpha : (hardwareReset s).tfAlpha = State.reset.tfAlpha := rfl

end

end Sys2Proof.Machine
end

