-- ==== Sys2Proof/Laws/Commands.lean ====
section
/-! SUPPORT. What the end of a command, the gating and a step can do, said once: later proofs cite these and do not unfold
`commit`, `gated` or `serve`. -/

namespace Sys2Proof.Machine

/-! ## `commit` and `gated` -/

@[simp] theorem commit_ok (s t : State) : commit s (.ok t) = .next (succeed t) := rfl

@[simp] theorem commit_error (s : State) (e : ErrCode) : commit s (.error e) = .next (raiseError e s) := rfl

/-- A command's end is always a next state: its writes with LAST_ERR = OK, or the error's report alone. -/
theorem commit_next (s t : State) (r : Except ErrCode State) :
    commit s r = .next t ↔ (∃ u, r = .ok u ∧ t = succeed u) ∨ (∃ e, r = .error e ∧ t = raiseError e s) := by
  cases r <;> simp [eq_comm]

theorem commit_answers (s : State) (r : Except ErrCode State) : ∃ t, commit s r = .next t := by
  cases r <;> simp

theorem gated_not_configured (s : State) (body : Except ErrCode State) (h : s.configured = false) :
    gated s body = .error .notConfigured := by simp [gated, h]

theorem gated_faulted (s : State) (body : Except ErrCode State) (h : s.configured = true) (hf : s.fault = true) :
    gated s body = .error .faulted := by simp [gated, h, hf]

theorem gated_open (s : State) (body : Except ErrCode State) (h : s.configured = true) (hf : s.fault = false) :
    gated s body = body := by simp [gated, h, hf]

/-- A gated command ends well only when configured, not faulted, and its body ends well. -/
theorem gated_ok (s t : State) (body : Except ErrCode State) :
    gated s body = .ok t ↔ s.configured = true ∧ s.fault = false ∧ body = .ok t := by
  unfold gated
  cases s.configured <;> cases s.fault <;> simp

/-- Every way a gated command fails. -/
theorem gated_error (s : State) (body : Except ErrCode State) (e : ErrCode) :
    gated s body = .error e ↔
      (s.configured = false ∧ e = .notConfigured) ∨ (s.configured = true ∧ s.fault = true ∧ e = .faulted) ∨
        (s.configured = true ∧ s.fault = false ∧ body = .error e) := by
  unfold gated
  cases s.configured <;> cases s.fault <;> simp [eq_comm]

theorem positionLegal_iff (p : ConfigRegs) (v : Word) :
    positionLegal p v = true ↔ 1 ≤ v.toNat ∧ v.toNat < 2 ^ p.width.toNat := by
  simp [positionLegal]

/-! ## Every meaning is the end of one computation -/

/-- What a command's rule computes before its end (`commit`), CONFIGURE's failure apart. -/
def commandBody (i : Instr) (s : State) : Except ErrCode State :=
  match i with
  | .nop => .ok s
  | .cfgWrite index value => match Reg.ofIndex index with | some r => writeReg s r value | none => .error .badIndex
  | .read index => match Reg.ofIndex index with | some r => .ok { s with res0 := readReg s r } | none => .error .badIndex
  | .configure => match configError s.staged with | some e => .error e | none => .ok (configureDone s)
  | .decSample a b => gated s (decodeFrame s a b)
  | .mapLoad pos => gated s (if positionLegal s.act pos then .ok (mapLoaded s pos) else .error .invalidParameter)
  | .encSample => gated s (encodeFrame s)
  | .encLoad pos =>
    gated s (if positionLegal s.act pos then .ok { s with encSE := pos, encPH := 0#32, res0 := pos } else .error .invalidParameter)
  | .tmLoad v => gated s (if positionLegal s.act v then .ok { s with tmS := v, res0 := v } else .error .invalidParameter)
  | .tmAdvance => gated s (storeStep s (advance s.act s.tmS))
  | .tmRevert => gated s (storeStep s (revert s.act s.tmS))
  | .tmPeekNext => gated s (peekStep s (advance s.act s.tmS))
  | .tmPeekPrev => gated s (peekStep s (revert s.act s.tmS))
  | .tmBit bit dir => if dir.steps then gated s (tmBitBody bit dir s) else .error .illegalCommand
  | .tfConfig alpha =>
    if factorLegal alpha then .ok { s with tfAlpha := alpha, tf := ⟨0#32, false⟩, res0 := alpha } else .error .invalidParameter
  | .tfUpdate x => .ok { s with tf := tfNext s x, res0 := (tfNext s x).s }
  | .tfPreview x => .ok { s with res0 := filterPreview s.tf (signedData x) s.tfAlpha.toNat }

/-- Every command but CONFIGURE is `commit` of its body on the state it began in. -/
theorem exec_eq_commit (i : Instr) (s : State) (h : i ≠ .configure) : exec i s = commit s (commandBody i s) := by
  cases i with
  | configure => exact absurd rfl h
  | tmBit bit dir => simp only [exec, execTmBit, commandBody]; split <;> rfl
  | _ => rfl

theorem exec_configure_ok (s : State) (h : configError s.staged = none) :
    exec .configure s = .next (succeed (configureDone s)) := by
  simp [exec, execConfigure, h]

theorem exec_configure_error (s : State) (e : ErrCode) (h : configError s.staged = some e) :
    exec .configure s = .next (raiseError e { s with configured := false }) := by
  simp [exec, execConfigure, h]

/-- What a command can answer: its writes with LAST_ERR = OK, an error's report alone, or a failing CONFIGURE. -/
theorem exec_cases (i : Instr) (s t : State) (h : exec i s = .next t) :
    (∃ u, commandBody i s = .ok u ∧ t = succeed u) ∨
    (i ≠ .configure ∧ ∃ e, commandBody i s = .error e ∧ t = raiseError e s) ∨
    (i = .configure ∧ ∃ e, configError s.staged = some e ∧ t = raiseError e { s with configured := false }) := by
  by_cases hi : i = .configure
  · subst hi
    cases hc : configError s.staged with
    | none =>
      rw [exec_configure_ok s hc] at h
      injection h with h
      exact .inl ⟨configureDone s, by simp [commandBody, hc], h.symm⟩
    | some e =>
      rw [exec_configure_error s e hc] at h
      injection h with h
      exact .inr (.inr ⟨rfl, e, rfl, h.symm⟩)
  · rw [exec_eq_commit i s hi, commit_next] at h
    rcases h with h | h
    · exact .inl h
    · exact .inr (.inl ⟨hi, h⟩)

/-- No command faults or is refused. -/
theorem exec_answers (i : Instr) (s : State) : ∃ t, exec i s = .next t := by
  by_cases hi : i = .configure
  · subst hi
    cases hc : configError s.staged with
    | none => exact ⟨_, exec_configure_ok s hc⟩
    | some e => exact ⟨_, exec_configure_error s e hc⟩
  · rw [exec_eq_commit i s hi]; exact commit_answers _ _

/-! ## The step -/

theorem step_idle (s : State) (h : s.inputs = []) : step s = .next s := by
  rw [step, serve, h]

theorem step_reset (s : State) (rest : List PortInput) (h : s.inputs = .reset :: rest) :
    step s = .next (hardwareReset { s with inputs := rest }) := by
  rw [step, serve, h]; rfl

theorem step_command (s : State) (rest : List PortInput) (w : CmdWord) (h : s.inputs = .command w :: rest) :
    step s = runWord w { s with inputs := rest } := by
  rw [step, serve, h]; rfl

theorem runWord_legal (s : State) (w : CmdWord) (i : Instr) (h : decode w = .ok i) : runWord w s = exec i s := by
  rw [runWord, h]

theorem runWord_illegal (s : State) (w : CmdWord) (e : Illegal) (h : decode w = .error e) :
    runWord w s = .next (raiseError .illegalCommand s) := by
  rw [runWord, h]; rfl

/-- Everything a step can do: idle, reset, run a legal command, or report an illegal word. -/
theorem step_cases (s t : State) (h : step s = .next t) :
    (s.inputs = [] ∧ t = s) ∨
    (∃ rest, s.inputs = .reset :: rest ∧ t = hardwareReset { s with inputs := rest }) ∨
    (∃ w rest i, s.inputs = .command w :: rest ∧ decode w = .ok i ∧ exec i { s with inputs := rest } = .next t) ∨
    (∃ w rest e, s.inputs = .command w :: rest ∧ decode w = .error e ∧
      t = raiseError .illegalCommand { s with inputs := rest }) := by
  cases hi : s.inputs with
  | nil =>
    rw [step_idle s hi] at h
    exact .inl ⟨rfl, by injection h with h; exact h.symm⟩
  | cons e rest =>
    cases e with
    | reset =>
      rw [step_reset s rest hi] at h
      exact .inr (.inl ⟨rest, rfl, by injection h with h; exact h.symm⟩)
    | command w =>
      rw [step_command s rest w hi] at h
      cases hd : decode w with
      | ok i => exact .inr (.inr (.inl ⟨w, rest, i, rfl, hd, by rw [← runWord_legal _ w i hd]; exact h⟩))
      | error e =>
        rw [runWord_illegal _ w e hd] at h
        exact .inr (.inr (.inr ⟨w, rest, e, rfl, hd, by injection h with h; exact h.symm⟩))

end Sys2Proof.Machine
end

