-- ==== Sys2Proof/Laws/Control.lean ====
section
/-! SUPPORT. What CONFIGURE's checks say as propositions, and the frame every command but CONFIGURE keeps. -/

namespace Sys2Proof.Machine

theorem rateLegal_widthLegal_sequenceLegal_iff (c : ConfigRegs) :
    (rateLegal c = true ∧ widthLegal c = true ∧ sequenceLegal c = true) ↔ c.FormatLegal := by
  have h : c.taps.getLsbD 0 = true ↔ c.taps.toNat % 2 = 1 := by simp [BitVec.getLsbD, Nat.testBit_zero]
  simp only [rateLegal, widthLegal, sequenceLegal, decide_eq_true_eq, ConfigRegs.FormatLegal, h]
  tauto

theorem paramsLegal_iff (c : ConfigRegs) : paramsLegal c = true ↔ c.ParamsLegal := by
  simp only [paramsLegal, factorLegal, Bool.and_eq_true, decide_eq_true_eq, ConfigRegs.ParamsLegal]
  tauto

/-- The three answers of CONFIGURE's checks. -/
theorem configError_iff (c : ConfigRegs) :
    (configError c = none ↔ c.Legal) ∧ (configError c = some .invalidFormat ↔ ¬ c.FormatLegal) ∧
      (configError c = some .invalidParameter ↔ c.FormatLegal ∧ ¬ c.ParamsLegal) := by
  rw [ConfigRegs.Legal, ← rateLegal_widthLegal_sequenceLegal_iff, ← paramsLegal_iff]
  unfold configError
  cases rateLegal c <;> cases widthLegal c <;> cases sequenceLegal c <;> cases paramsLegal c <;> simp

/-- CONFIGURE fails with one of two codes. -/
theorem configError_code (c : ConfigRegs) (e : ErrCode) (h : configError c = some e) :
    e = .invalidFormat ∨ e = .invalidParameter := by
  unfold configError at h
  repeat' split at h
  all_goals simp at h
  all_goals simp [← h]

/-- A command that completes, CONFIGURE apart, leaves CONFIGURED, FAULT, the active registers and the inputs alone. -/
theorem commandBody_ok_frame (i : Instr) (s u : State) (hi : i ≠ .configure) (h : commandBody i s = .ok u) :
    u.configured = s.configured ∧ u.fault = s.fault ∧ u.act = s.act ∧ u.inputs = s.inputs := by
  cases i with
  | configure => exact absurd rfl hi
  | nop => simp [commandBody] at h; subst h; simp
  | cfgWrite index value =>
    simp only [commandBody] at h
    cases hr : Reg.ofIndex index with
    | none => rw [hr] at h; simp at h
    | some r => rw [hr] at h; cases r <;> simp [writeReg] at h <;> subst h <;> simp
  | read index =>
    simp only [commandBody] at h
    cases hr : Reg.ofIndex index with
    | none => rw [hr] at h; simp at h
    | some r => rw [hr] at h; simp at h; subst h; simp
  | decSample a b =>
    simp only [commandBody, gated_ok, decodeFrame] at h
    obtain ⟨_, _, h⟩ := h
    split at h <;> simp at h; subst h; simp
  | encSample =>
    simp only [commandBody, gated_ok, encodeFrame] at h
    obtain ⟨_, _, h⟩ := h
    split at h <;> simp at h; subst h; simp
  | mapLoad v | encLoad v | tmLoad v =>
    simp only [commandBody, gated_ok] at h
    obtain ⟨_, _, h⟩ := h
    split at h <;> simp at h; subst h; simp
  | tmAdvance | tmRevert | tmPeekNext | tmPeekPrev =>
    simp only [commandBody, gated_ok, storeStep, peekStep] at h
    obtain ⟨_, _, h⟩ := h
    split at h <;> simp at h; subst h; simp
  | tmBit bit dir =>
    simp only [commandBody] at h
    split at h
    · simp only [gated_ok, tmBitBody] at h
      obtain ⟨_, _, h⟩ := h
      split at h <;> simp at h; subst h; simp
    · simp at h
  | tfConfig a => simp only [commandBody] at h; split at h <;> simp at h; subst h; simp
  | tfUpdate x => simp [commandBody] at h; subst h; simp
  | tfPreview x => simp [commandBody] at h; subst h; simp

end Sys2Proof.Machine
end

