-- ==== Sys2Proof/Laws/Ops.lean ====
section
/-! SUPPORT. One lemma for each shared operation: its value in plain numbers, and every way it can fail. -/

namespace Sys2Proof.Machine

/-! ## Arithmetic primitives -/

theorem floorDiv_pos (a b : Nat) (h : 0 < b) : floorDiv a b = a / b := by
  rw [floorDiv, if_neg (by omega)]

theorem bitWord_toNat (b : Bool) : (bitWord b).toNat = if b then 1 else 0 := by cases b <;> rfl

theorem bitWord_getLsbD (b : Bool) (i : Nat) : (bitWord b).getLsbD i = (b && decide (i = 0)) := by
  cases b
  · simp [bitWord]
  · simp [bitWord, BitVec.getLsbD_one]

theorem satInc_toNat {n : Nat} (v : BitVec n) : (satInc v).toNat = min (v.toNat + 1) (2 ^ n - 1) := by
  have h2 : 0 < 2 ^ n := Nat.two_pow_pos n
  rw [satInc, BitVec.toNat_ofNat, Nat.mod_eq_of_lt]
  omega

theorem maskW_getLsbD (w i : Nat) (hw : w ≤ 32) : (maskW w).getLsbD i = decide (i < w) := by
  rw [maskW, BitVec.getLsbD_ofNat, Nat.testBit_two_pow_sub_one]
  by_cases h : i < w
  · simp [h]; omega
  · simp [h]

/-- A word of W bits has no bit at or above W. -/
theorem getLsbD_of_lt_two_pow (v : Word) (w i : Nat) (hv : v.toNat < 2 ^ w) (hi : w ≤ i) : v.getLsbD i = false := by
  rw [BitVec.getLsbD]
  exact Nat.testBit_lt_two_pow (lt_of_lt_of_le hv (Nat.pow_le_pow_right (by omega) hi))

/-- A word with no bit at or above W is below 2^W. -/
theorem lt_two_pow_of_getLsbD (v : Word) (w : Nat) (h : ∀ i, w ≤ i → v.getLsbD i = false) : v.toNat < 2 ^ w := by
  apply Nat.lt_pow_two_of_testBit
  intro i hi
  exact h i hi

/-! ## Parity -/

/-- Parity splits over two words of which each bit is in at most one. -/
theorem parityBelow_xor (u v : Word) (n : Nat) : parityBelow (u ^^^ v) n = (parityBelow u n ^^ parityBelow v n) := by
  induction n with
  | zero => rfl
  | succ n ih =>
    rw [parityBelow, parityBelow, parityBelow, ih, BitVec.getLsbD_xor]
    cases u.getLsbD n <;> cases v.getLsbD n <;> cases parityBelow u n <;> cases parityBelow v n <;> rfl

theorem parityBelow_congr (u v : Word) (n : Nat) (h : ∀ i, i < n → u.getLsbD i = v.getLsbD i) :
    parityBelow u n = parityBelow v n := by
  induction n with
  | zero => rfl
  | succ n ih =>
    rw [parityBelow, parityBelow, h n (by omega), ih (fun i hi => h i (by omega))]

/-- Bits that are all 0 above n do not count. -/
theorem parityBelow_eq (v : Word) (n m : Nat) (hnm : n ≤ m) (h : ∀ i, n ≤ i → v.getLsbD i = false) :
    parityBelow v m = parityBelow v n := by
  induction m with
  | zero => have : n = 0 := by omega
            rw [this]
  | succ m ih =>
    by_cases hm : n = m + 1
    · rw [hm]
    · rw [parityBelow, h m (by omega), ih (by omega), Bool.false_xor]

/-- The lowest bit taken out of a parity, the others moved down by one. -/
theorem parityBelow_succ_shift (v : Word) (n : Nat) :
    parityBelow v (n + 1) = (v.getLsbD 0 ^^ parityBelow (v >>> 1) n) := by
  induction n with
  | zero => simp [parityBelow]
  | succ n ih =>
    rw [parityBelow, ih, parityBelow, BitVec.getLsbD_ushiftRight, Nat.add_comm 1 n]
    cases v.getLsbD (n + 1) <;> cases v.getLsbD 0 <;> cases parityBelow (v >>> 1) n <;> rfl

theorem parity_zero : parity 0#32 = false := by decide

/-! ## How the generator and mapper fail -/

theorem advance_error (p : ConfigRegs) (s : Word) (e : ErrCode) :
    advance p s = .error e ↔ s = 0#32 ∧ e = .lfsrZero := by
  unfold advance
  split
  · rename_i h
    simp only [h, Except.error.injEq, true_and]
    exact eq_comm
  · rename_i h
    simp [h]

theorem revert_error (p : ConfigRegs) (s : Word) (e : ErrCode) :
    revert p s = .error e ↔ s = 0#32 ∧ e = .lfsrZero := by
  unfold revert
  split
  · rename_i h
    simp only [h, Except.error.injEq, true_and]
    exact eq_comm
  · rename_i h
    simp [h]

theorem advance_ok (p : ConfigRegs) (s : Word) (h : s ≠ 0#32) :
    advance p s = .ok { next := (s >>> 1) ||| (bitWord (feedback p s) <<< (p.width.toNat - 1)),
                        fb := feedback p s, out := s.getLsbD 0 } := by
  rw [advance, if_neg h]

theorem revert_ok (p : ConfigRegs) (s : Word) (h : s ≠ 0#32) :
    revert p s = .ok { next := ((s <<< 1) &&& maskW p.width.toNat) ||| bitWord (parity (s &&& revertTaps p)),
                       fb := parity (s &&& revertTaps p), out := s.getLsbD (p.width.toNat - 1) } := by
  rw [revert, if_neg h]

theorem revertTimes_error (p : ConfigRegs) (n : Nat) (s : Word) (e : ErrCode) (h : revertTimes p n s = .error e) :
    e = .lfsrZero := by
  induction n generalizing s with
  | zero => simp [revertTimes] at h
  | succ n ih =>
    unfold revertTimes at h
    split at h
    · exact ih _ h
    · rename_i h2
      injection h with h
      exact h ▸ ((revert_error p s _).1 h2).2

theorem mapperStep_forward (p : ConfigRegs) (s : Word) (b : Bool) (g : GenStep) (h : advance p s = .ok g) :
    mapperStep p s b .forward = .ok (g.next, b == g.fb) := by
  simp [mapperStep, h]

theorem mapperStep_backward (p : ConfigRegs) (s : Word) (b : Bool) (g : GenStep) (h : revert p s = .ok g) :
    mapperStep p s b .backward = .ok (g.next, b == s.getLsbD (p.width.toNat - 1)) := by
  simp [mapperStep, h]

/-- In a direction that steps, a mapper step fails only on the zero state. -/
theorem mapperStep_error (p : ConfigRegs) (s : Word) (b : Bool) (d : Direction) (e : ErrCode) (hd : d ≠ .stopped) :
    mapperStep p s b d = .error e ↔ s = 0#32 ∧ e = .lfsrZero := by
  cases d with
  | stopped => exact absurd rfl hd
  | forward =>
    rw [← advance_error p]
    simp only [mapperStep]
    split <;> simp_all
  | backward =>
    rw [← revert_error p]
    simp only [mapperStep]
    split <;> simp_all

/-! ## The smoothing filter -/

theorem filterStep_init (f : FilterState) (x : Int) (a : Nat) : (filterStep f x a).init = true := by
  unfold filterStep; split <;> rfl

/-- A division toward zero by 65536 of a multiple k*d with 0 <= k < 65536 lies between 0 and d, and is nearer to 0. -/
theorem truncDiv_between (k d : Int) (h0 : 0 ≤ k) (h1 : k < 65536) :
    (0 ≤ d → 0 ≤ truncDiv (k * d) 65536 ∧ truncDiv (k * d) 65536 ≤ d) ∧
    (d ≤ 0 → d ≤ truncDiv (k * d) 65536 ∧ truncDiv (k * d) 65536 ≤ 0) ∧
    (0 < d → truncDiv (k * d) 65536 < d) ∧ (d < 0 → d < truncDiv (k * d) 65536) := by
  have hpos : ∀ c : Int, 0 ≤ c → 0 ≤ truncDiv (k * c) 65536 ∧ truncDiv (k * c) 65536 ≤ c ∧
      (0 < c → truncDiv (k * c) 65536 < c) := by
    intro c hc
    have hkc : 0 ≤ k * c := Int.mul_nonneg h0 hc
    have hle : k * c ≤ 65535 * c := Int.mul_le_mul_of_nonneg_right (by omega) hc
    rw [truncDiv, Int.tdiv_eq_ediv_of_nonneg hkc]
    omega
  have hneg : ∀ c : Int, truncDiv (k * (-c)) 65536 = -truncDiv (k * c) 65536 := by
    intro c
    rw [truncDiv, truncDiv, Int.mul_neg, Int.neg_tdiv]
  have hd : truncDiv (k * d) 65536 = -truncDiv (k * (-d)) 65536 := by rw [hneg]; omega
  refine ⟨fun h => ⟨(hpos d h).1, (hpos d h).2.1⟩, fun h => ?_, fun h => (hpos d (by omega)).2.2 h, fun h => ?_⟩
  · have := hpos (-d) (by omega); omega
  · have := (hpos (-d) (by omega)).2.2 (by omega); omega

/-- A 32-bit pattern made from an integer that fits reads back as that integer. -/
theorem toInt_ofInt_of_fits (x : Int) (h0 : -(2 ^ 31) ≤ x) (h1 : x < 2 ^ 31) : (BitVec.ofInt 32 x).toInt = x := by
  rw [BitVec.toInt_ofInt, Int.bmod_def]
  omega

theorem word_toInt_fits (v : Word) : -(2 ^ 31) ≤ v.toInt ∧ v.toInt < 2 ^ 31 := by
  have h1 := BitVec.le_toInt v
  have h2 := BitVec.toInt_lt (x := v)
  norm_num at h1 h2
  omega

end Sys2Proof.Machine
end

