-- ==== Sys2Proof/Laws/Decoder.lean ====
section
/-! SUPPORT. The decoder's stages: the three cases of a channel's step, the direction's conditions as propositions, the
cases of a mapper feed, and how a frame can fail. -/

namespace Sys2Proof.Machine

/-! ## ChannelStep -/

theorem channelStep_again (p : ConfigRegs) (f : Nat) (c : Channel) (s : Sample)
    (hx : crossing c.side (sideStep p c s) = true) (hh : c.havex = true) :
    channelStep p f c s = crossAgain p f (preCross p c s) := by simp [channelStep, hx, hh]

theorem channelStep_first (p : ConfigRegs) (f : Nat) (c : Channel) (s : Sample)
    (hx : crossing c.side (sideStep p c s) = true) (hh : c.havex = false) :
    channelStep p f c s = crossFirst (preCross p c s) := by simp [channelStep, hx, hh]

theorem channelStep_none (p : ConfigRegs) (f : Nat) (c : Channel) (s : Sample)
    (hx : crossing c.side (sideStep p c s) = false) :
    channelStep p f c s = noCross p (preCross p c s) := by simp [channelStep, hx]

/-- The three things a channel's step can be. -/
theorem channelStep_cases (p : ConfigRegs) (f : Nat) (c : Channel) (s : Sample) :
    (crossing c.side (sideStep p c s) = true ∧ c.havex = true ∧ channelStep p f c s = crossAgain p f (preCross p c s)) ∨
    (crossing c.side (sideStep p c s) = true ∧ c.havex = false ∧ channelStep p f c s = crossFirst (preCross p c s)) ∨
    (crossing c.side (sideStep p c s) = false ∧ channelStep p f c s = noCross p (preCross p c s)) := by
  cases hx : crossing c.side (sideStep p c s) <;> cases hh : c.havex <;> simp [channelStep, hx, hh]

theorem crossing_iff (old new : Side) : crossing old new = true ↔ old ≠ .unknown ∧ new ≠ old := by
  simp [crossing]

/-- What a sample with no crossing leaves: only the pitch may have moved. -/
theorem noCross_ch (p : ConfigRegs) (c : Channel) :
    (noCross p c).ch = { c with
      pitch := if p.stopTimeout.toNat ≤ c.cnt.toNat then filterStep c.pitch 0 p.aPitch.toNat else c.pitch } := by
  simp only [noCross]; split <;> rfl

theorem scaledSample_fits (s : Sample) : -(2 ^ 31) ≤ scaledSample s ∧ scaledSample s < 2 ^ 31 := by
  have h1 := BitVec.le_toInt s
  have h2 := BitVec.toInt_lt (x := s)
  norm_num at h1 h2
  unfold scaledSample; omega

/-! ## PhaseStep -/

theorem reliable_iff (c o : ChannelOut) :
    reliable c o = true ↔ c.hadx = true ∧ o.ch.havex = true ∧ o.ch.side ≠ .unknown ∧ o.ch.cnt.toNat < c.agePrev.toNat := by
  simp [reliable, and_assoc]

/-! ## MapperFeed and SyncUpdate -/

theorem reloads_iff (isMatch tracking full : Bool) (r : Word) :
    reloads isMatch tracking full r = true ↔ isMatch = false ∧ tracking = false ∧ full = true ∧ r ≠ 0#32 := by
  simp [reloads, and_assoc]

theorem isValid_iff (p : ConfigRegs) (s : Word) : isValid p s = true ↔ s.toNat < p.valid.toNat := by simp [isValid]

theorem feedBit_step (p : ConfigRegs) (m : Mapper) (tracking : Bool) (dir : Direction) (b : Bool) (s2 : Word) (isMatch : Bool)
    (hm : mapperStep p m.s b dir = .ok (s2, isMatch))
    (hr : reloads isMatch tracking (decide (nextCount p m dir = p.width.toNat)) (shiftIn p dir m.r b) = false) :
    feedBit p m tracking dir b =
      .ok { map := { s := s2, r := shiftIn p dir m.r b, rcnt := BitVec.ofNat 6 (nextCount p m dir), rdir := dir },
            fed := true, stepped := true, isMatch := isMatch, reloaded := false } := by
  simp [feedBit, hm, hr]

theorem feedBit_reload (p : ConfigRegs) (m : Mapper) (tracking : Bool) (dir : Direction) (b : Bool) (s2 s3 : Word)
    (isMatch : Bool) (hm : mapperStep p m.s b dir = .ok (s2, isMatch))
    (hr : reloads isMatch tracking (decide (nextCount p m dir = p.width.toNat)) (shiftIn p dir m.r b) = true)
    (hw : windowState p dir (shiftIn p dir m.r b) = .ok s3) :
    feedBit p m tracking dir b =
      .ok { map := { s := s3, r := shiftIn p dir m.r b, rcnt := BitVec.ofNat 6 (nextCount p m dir), rdir := dir },
            fed := true, stepped := true, isMatch := isMatch, reloaded := true } := by
  simp [feedBit, hm, hr, hw]

theorem windowState_error (p : ConfigRegs) (dir : Direction) (r : Word) (e : ErrCode) (h : windowState p dir r = .error e) :
    e = .lfsrZero := by
  cases dir
  · simp [windowState] at h
  · simp [windowState] at h
  · exact revertTimes_error _ _ _ _ h

theorem feedBit_error (p : ConfigRegs) (m : Mapper) (tracking : Bool) (dir : Direction) (b : Bool) (e : ErrCode)
    (hd : dir ≠ .stopped) (h : feedBit p m tracking dir b = .error e) : e = .lfsrZero := by
  unfold feedBit at h
  split at h
  · rename_i h2
    injection h with h
    exact h ▸ ((mapperStep_error _ _ _ _ _ hd).1 h2).2
  · split at h
    · split at h
      · rename_i h2
        injection h with h
        exact h ▸ windowState_error _ _ _ _ h2
      · simp at h
    · simp at h

/-- The cases of a mapper feed. -/
theorem mapperFeed_cases (p : ConfigRegs) (m : Mapper) (tracking : Bool) (dir : Direction) (a : ChannelOut) :
    ((a.xing && a.hasBit) = false ∧
      mapperFeed p m tracking dir a = .ok { map := m, fed := false, stepped := false, isMatch := false, reloaded := false }) ∨
    ((a.xing && a.hasBit) = true ∧ dir = .stopped ∧
      mapperFeed p m tracking dir a = .ok { map := { m with rcnt := 0#6, rdir := .stopped },
                                            fed := true, stepped := false, isMatch := false, reloaded := false }) ∨
    ((a.xing && a.hasBit) = true ∧ dir ≠ .stopped ∧ mapperFeed p m tracking dir a = feedBit p m tracking dir a.bit) := by
  unfold mapperFeed
  cases h : a.xing && a.hasBit
  · simp
  · cases dir <;> simp

/-- A frame fails only by reaching the zero state. -/
theorem decodeFrame_error (s : State) (a b : Sample) (e : ErrCode) (h : decodeFrame s a b = .error e) : e = .lfsrZero := by
  unfold decodeFrame at h
  split at h
  · simp at h
  · rename_i h2
    injection h with h
    rw [frameFeed] at h2
    rcases mapperFeed_cases s.act s.map s.sync.tracking (frameDir s a b) (stepA s a) with h3 | h3 | h3
    · rw [h3.2] at h2; simp at h2
    · rw [h3.2.2] at h2; simp at h2
    · rw [h3.2.2] at h2; exact h ▸ feedBit_error _ _ _ _ _ _ h3.2.1 h2

theorem syncUpdate_good (p : ConfigRegs) (y : Sync) (s : Word) (hv : isValid p s = true) :
    syncUpdate p y s true =
      { run := satInc y.run, tracking := decide (p.syncLen.toNat ≤ (satInc y.run).toNat) || y.tracking, lastMatch := true } := by
  simp [syncUpdate, hv]

theorem syncUpdate_bad (p : ConfigRegs) (y : Sync) (s : Word) (isMatch : Bool) (h : (isMatch && isValid p s) = false) :
    syncUpdate p y s isMatch = { run := 0#8, tracking := false, lastMatch := isMatch } := by
  simp [syncUpdate, h]

end Sys2Proof.Machine
end

