-- ==== Sys2Proof/Laws/Encoding.lean ====
section
/-! SUPPORT. Command words as numbers: the fields of a word, of a word made from fields, and of a concatenation. -/

namespace Sys2Proof

theorem append_toNat {n m : Nat} (x : BitVec n) (y : BitVec m) : (x ++ y).toNat = x.toNat * 2 ^ m + y.toNat := by
  rw [BitVec.toNat_append, ← Nat.shiftLeft_add_eq_or_of_lt y.isLt, Nat.shiftLeft_eq]

theorem extract_toNat {n : Nat} (x : BitVec n) (i k : Nat) : (x.extractLsb' i k).toNat = x.toNat / 2 ^ i % 2 ^ k := by
  rw [BitVec.extractLsb'_toNat, Nat.shiftRight_eq_div_pow]

theorem ofBool_toNat (b : Bool) : (BitVec.ofBool b).toNat = if b then 1 else 0 := by cases b <;> rfl

/-! ## The fields of a word -/

theorem opc_toNat (w : CmdWord) : w.opc.toNat = w.toNat % 256 := by
  rw [CmdWord.opc, extract_toNat]; omega

theorem arg_toNat (w : CmdWord) : w.arg.toNat = w.toNat / 256 % 256 := by
  rw [CmdWord.arg, extract_toNat]; omega

theorem rsv_toNat (w : CmdWord) : w.rsv.toNat = w.toNat / 65536 % 65536 := by
  rw [CmdWord.rsv, extract_toNat]; omega

theorem data_toNat (w : CmdWord) : w.data.toNat = w.toNat / 4294967296 := by
  have := w.isLt
  rw [CmdWord.data, extract_toNat]; omega

/-! ## A word made from fields -/

theorem make_toNat (opc arg : BitVec 8) (data : Word) :
    (CmdWord.make opc arg data).toNat = opc.toNat + 256 * arg.toNat + 4294967296 * data.toNat := by
  have h : (CmdWord.make opc arg data).toNat = (data ++ 0#16 ++ arg ++ opc).toNat := rfl
  rw [h, append_toNat, append_toNat, append_toNat, BitVec.toNat_zero]; omega

@[simp] theorem make_opc (opc arg : BitVec 8) (data : Word) : (CmdWord.make opc arg data).opc = opc := by
  have := opc.isLt
  apply BitVec.eq_of_toNat_eq; rw [opc_toNat, make_toNat]; omega

@[simp] theorem make_arg (opc arg : BitVec 8) (data : Word) : (CmdWord.make opc arg data).arg = arg := by
  have := opc.isLt
  have := arg.isLt
  apply BitVec.eq_of_toNat_eq; rw [arg_toNat, make_toNat]; omega

@[simp] theorem make_rsv (opc arg : BitVec 8) (data : Word) : (CmdWord.make opc arg data).rsv = 0#16 := by
  have := opc.isLt
  have := arg.isLt
  apply BitVec.eq_of_toNat_eq; rw [rsv_toNat, make_toNat, BitVec.toNat_zero]; omega

@[simp] theorem make_data (opc arg : BitVec 8) (data : Word) : (CmdWord.make opc arg data).data = data := by
  have := opc.isLt
  have := arg.isLt
  apply BitVec.eq_of_toNat_eq; rw [data_toNat, make_toNat]; omega

/-- A word whose RSV is 0 is made of its three other fields. -/
theorem make_of_fields (w : CmdWord) (h : w.rsv = 0#16) : CmdWord.make w.opc w.arg w.data = w := by
  have h2 := rsv_toNat w
  have := w.isLt
  rw [h, BitVec.toNat_zero] at h2
  apply BitVec.eq_of_toNat_eq; rw [make_toNat, opc_toNat, arg_toNat, data_toNat]; omega

/-! ## Frames -/

@[simp] theorem frameData_low (a b : Sample) : (frameData a b).extractLsb' 0 16 = a := by
  have := a.isLt
  apply BitVec.eq_of_toNat_eq
  rw [frameData, extract_toNat, append_toNat]; omega

@[simp] theorem frameData_high (a b : Sample) : (frameData a b).extractLsb' 16 16 = b := by
  have := a.isLt
  have := b.isLt
  apply BitVec.eq_of_toNat_eq
  rw [frameData, extract_toNat, append_toNat]; omega

theorem frameData_of_halves (d : Word) : frameData (d.extractLsb' 0 16) (d.extractLsb' 16 16) = d := by
  have := d.isLt
  apply BitVec.eq_of_toNat_eq
  rw [frameData, append_toNat, extract_toNat, extract_toNat]; omega

/-! ## What each operand form accepts -/

theorem decodeNoOperand_ok (w : CmdWord) (i j : Instr) :
    decodeNoOperand w i = .ok j ↔ w.arg = 0#8 ∧ w.data = 0#32 ∧ j = i := by
  unfold decodeNoOperand
  split
  · simp_all
  · split <;> simp_all [eq_comm]

theorem decodeDataOnly_ok (w : CmdWord) (i j : Instr) : decodeDataOnly w i = .ok j ↔ w.arg = 0#8 ∧ j = i := by
  unfold decodeDataOnly
  split <;> simp_all [eq_comm]

theorem decodeArgOnly_ok (w : CmdWord) (i j : Instr) : decodeArgOnly w i = .ok j ↔ w.data = 0#32 ∧ j = i := by
  unfold decodeArgOnly
  split <;> simp_all [eq_comm]

theorem direction_ofCode (c : BitVec 2) (d : Direction) : Direction.ofCode c = some d ↔ d.code = c := by
  revert c d
  intro c d
  cases d <;> revert c <;> decide

/-- ARG of TM_BIT, put together from its fields. -/
theorem tmBit_arg (a : BitVec 8) : a.extractLsb' 3 5 ++ a.extractLsb' 1 2 ++ BitVec.ofBool (a.getLsbD 0) = a := by
  revert a; decide

theorem decodeTmBit_ok (w : CmdWord) (j : Instr) :
    decodeTmBit w = .ok j ↔ w.data = 0#32 ∧ ∃ b d, j = .tmBit b d ∧ d.steps = true ∧ w.arg = (Instr.tmBit b d).argField := by
  have hj := tmBit_arg w.arg
  have hx : ∀ b d, (0#5 ++ Direction.code d ++ BitVec.ofBool b).extractLsb' 3 5 = 0#5 ∧
      (0#5 ++ Direction.code d ++ BitVec.ofBool b).extractLsb' 1 2 = d.code ∧
      (0#5 ++ Direction.code d ++ BitVec.ofBool b).getLsbD 0 = b := by
    intro b d; cases b <;> cases d <;> decide
  constructor
  · intro h
    unfold decodeTmBit at h
    split at h
    · simp at h
    · split at h
      · simp at h
      · rename_i ha hd
        simp only [ne_eq, Decidable.not_not] at ha hd
        split at h <;> simp only [Except.ok.injEq, reduceCtorEq] at h <;> rename_i hc
        all_goals
          refine ⟨hd, _, _, h.symm, rfl, ?_⟩
          rw [ha, ← (direction_ofCode _ _).1 hc] at hj
          exact hj.symm
  · rintro ⟨hd, b, d, rfl, hs, ha⟩
    unfold decodeTmBit
    simp only [Instr.argField] at ha
    rw [ha, (hx b d).1, (hx b d).2.1, (hx b d).2.2, hd]
    cases d
    · simp [Direction.steps] at hs
    · rfl
    · rfl

/-- The eight bytes of a word, joined lowest first, are the word. -/
theorem decodeBytes_toBytes (w : CmdWord) : decodeBytes w.toBytes = decode w := by
  have := w.isLt
  rw [CmdWord.toBytes, decodeBytes]
  congr 1
  apply BitVec.eq_of_toNat_eq
  simp only [append_toNat, extract_toNat]; omega

@[simp] theorem CmdWord.length_toBytes (w : CmdWord) : w.toBytes.length = 8 := rfl

@[simp] theorem Word.length_toBytes (v : Word) : v.toBytes.length = 4 := rfl

/-- Byte k of a command word on a link, as a number. -/
theorem CmdWord.getElem_toBytes (w : CmdWord) (k : Nat) (h : k < 8) :
    w.toBytes[k]? = some (BitVec.ofNat 8 (w.toNat / 2 ^ (8 * k))) := by
  interval_cases k <;>
    simp [CmdWord.toBytes, ← BitVec.toNat_inj, Nat.shiftRight_eq_div_pow]

/-- Byte k of a register value or result on a link, as a number. -/
theorem Word.getElem_toBytes (v : Word) (k : Nat) (h : k < 4) :
    v.toBytes[k]? = some (BitVec.ofNat 8 (v.toNat / 2 ^ (8 * k))) := by
  interval_cases k <;>
    simp [Word.toBytes, ← BitVec.toNat_inj, Nat.shiftRight_eq_div_pow]

/-- A frame's two samples, as the halves of its DATA. -/
theorem frameData_toNat (a b : Sample) : (frameData a b).toNat = a.toNat + 65536 * b.toNat := by
  rw [frameData, append_toNat]; omega

end Sys2Proof
end

