-- ==== Sys2Proof/Laws/Flags.lean ====
section
/-! SUPPORT. Every word assembled from flags, as a number: the sum of its fields, each at the weight of its lowest bit. -/

namespace Sys2Proof.Machine

theorem direction_code_lt (d : Direction) : d.code.toNat ≤ 2 := by cases d <;> decide

theorem side_code_lt (x : Side) : x.code.toNat ≤ 2 := by cases x <;> decide

theorem errCode_code_lt (e : ErrCode) : e.code.toNat ≤ 7 := by cases e <;> decide

/-- STATUS (R33). -/
theorem statusWord_toNat (s : State) :
    (statusWord s).toNat =
      s.configured.toNat + 2 * s.sync.tracking.toNat + 4 * s.dir.code.toNat + 16 * (statusValid s).toNat +
        32 * s.sync.lastMatch.toNat + 64 * s.fault.toNat + 256 * s.lastErr.code.toNat := by
  have h : (statusWord s).toNat =
      (0#20 ++ s.lastErr.code ++ 0#1 ++ BitVec.ofBool s.fault ++ BitVec.ofBool s.sync.lastMatch
        ++ BitVec.ofBool (statusValid s) ++ s.dir.code ++ BitVec.ofBool s.sync.tracking
        ++ BitVec.ofBool s.configured).toNat := rfl
  rw [h]
  simp only [append_toNat, BitVec.toNat_ofBool, BitVec.toNat_zero]
  omega

/-- RES1 of DEC_SAMPLE (R246). -/
theorem decResultWord_toNat (ca cb : BitVec 3) (d : Direction) (t v st m r : Bool) :
    (decResultWord ca cb d t v st m r).toNat =
      ca.toNat + 8 * cb.toNat + 64 * d.code.toNat + 256 * t.toNat + 512 * v.toNat + 1024 * st.toNat + 2048 * m.toNat +
        4096 * r.toNat := by
  have h : (decResultWord ca cb d t v st m r).toNat =
      (0#19 ++ BitVec.ofBool r ++ BitVec.ofBool m ++ BitVec.ofBool st ++ BitVec.ofBool v ++ BitVec.ofBool t ++ d.code
        ++ cb ++ ca).toNat := rfl
  rw [h]
  simp only [append_toNat, BitVec.toNat_ofBool, BitVec.toNat_zero]
  omega

/-- The three flags of one channel in RES1 of DEC_SAMPLE (R246). -/
theorem xingBits_toNat (xing hasBit bit : Bool) :
    (xingBits xing hasBit bit).toNat = xing.toNat + 2 * hasBit.toNat + 4 * bit.toNat := by
  cases xing <;> cases hasBit <;> cases bit <;> rfl

/-- DES_CTRL (R35). -/
theorem desCtrlWord_toNat (m : Mapper) : (desCtrlWord m).toNat = m.rcnt.toNat + 256 * m.rdir.code.toNat := by
  have h : (desCtrlWord m).toNat = (0#22 ++ m.rdir.code ++ 0#2 ++ m.rcnt).toNat := rfl
  rw [h]
  simp only [append_toNat, BitVec.toNat_zero]
  omega

/-- DEC_RUN (R35). -/
theorem decRunWord_toNat (y : Sync) : (decRunWord y).toNat = y.run.toNat := by
  have h : (decRunWord y).toNat = (0#24 ++ y.run).toNat := rfl
  rw [h, append_toNat, BitVec.toNat_zero, Nat.zero_mul, Nat.zero_add]

/-- CH_FLAGS (R35). -/
theorem chFlagsWord_toNat (c : Channel) :
    (chFlagsWord c).toNat =
      c.base.init.toNat + 2 * c.pitch.init.toNat + 4 * c.side.code.toNat + 16 * c.havex.toNat := by
  have h : (chFlagsWord c).toNat =
      (0#27 ++ BitVec.ofBool c.havex ++ c.side.code ++ BitVec.ofBool c.pitch.init ++ BitVec.ofBool c.base.init).toNat := rfl
  rw [h]
  simp only [append_toNat, BitVec.toNat_ofBool, BitVec.toNat_zero]
  omega

/-- TF_FLAGS (R35). -/
theorem tfFlagsWord_toNat (f : FilterState) : (tfFlagsWord f).toNat = f.init.toNat := by
  cases h : f.init <;> simp [tfFlagsWord, h]

/-- RES1 of TM_BIT (R183). -/
theorem matchWord_toNat (isMatch valid : Bool) : (matchWord isMatch valid).toNat = isMatch.toNat + 2 * valid.toNat := by
  cases isMatch <;> cases valid <;> decide

/-- RES1 of ENC_SAMPLE (R280). -/
theorem encWord_toNat (b crossed : Bool) : (encWord b crossed).toNat = b.toNat + 2 * crossed.toNat := by
  cases b <;> cases crossed <;> decide

/-- A bit of a word, as a number. -/
theorem getLsbD_eq_of_toNat (v : Word) (i : Nat) (b : Bool) (h : v.toNat / 2 ^ i % 2 = b.toNat) : v.getLsbD i = b := by
  have h2 : v.getLsbD i = decide (v.toNat / 2 ^ i % 2 = 1) := by
    rw [BitVec.getLsbD, Nat.testBit_eq_decide_div_mod_eq]
  rw [h2, h]
  cases b <;> rfl

/-- A field of a word, as a number. -/
theorem extract_eq_of_toNat {n k : Nat} (v : BitVec n) (i : Nat) (f : BitVec k) (h : v.toNat / 2 ^ i % 2 ^ k = f.toNat) :
    v.extractLsb' i k = f := by
  apply BitVec.eq_of_toNat_eq
  rw [extract_toNat, h]

end Sys2Proof.Machine
end

