-- ==== Sys2Proof/Laws/Generator.lean ====
section
/-! SUPPORT. The generator bit by bit: each bit of an advanced and of a reverted state, the feedback bits split at the end
that moves, and both shifts as numbers. A legal format's facts come first. -/

namespace Sys2Proof.Machine

/-! ## Facts of a legal format and of a state in range -/

theorem formatLegal_width (p : ConfigRegs) (hp : p.FormatLegal) : 1 ≤ p.width.toNat ∧ p.width.toNat ≤ 32 := hp.2.2.2.1

theorem formatLegal_taps_zero (p : ConfigRegs) (hp : p.FormatLegal) : p.taps.getLsbD 0 = true := by
  have := hp.2.2.2.2.1.2
  simp [BitVec.getLsbD, Nat.testBit_zero, this]

theorem formatLegal_taps_high (p : ConfigRegs) (hp : p.FormatLegal) (i : Nat) (hi : p.width.toNat ≤ i) :
    p.taps.getLsbD i = false :=
  getLsbD_of_lt_two_pow p.taps _ i hp.2.2.2.2.1.1 hi

theorem inRange_ne_zero (p : ConfigRegs) (st : Word) (h : p.InRange st) : st ≠ 0#32 := by
  rintro rfl
  simp [ConfigRegs.InRange] at h

theorem ne_zero_iff_pos (v : Word) : v ≠ 0#32 ↔ 1 ≤ v.toNat := by
  constructor
  · intro h
    have h2 : v.toNat ≠ 0 := fun h3 => h (BitVec.eq_of_toNat_eq (by simpa using h3))
    omega
  · rintro h rfl
    simp at h

theorem two_pow_width (w : Nat) (h : 1 ≤ w) : 2 ^ w = 2 * 2 ^ (w - 1) := by
  obtain ⟨k, rfl⟩ := Nat.exists_eq_add_of_le h
  rw [Nat.add_comm, Nat.pow_succ]
  simp [Nat.mul_comm]

/-! ## Bits after a shift -/

/-- A state shifted right with `b` inserted at bit W-1. -/
theorem shiftRight_insert_getLsbD (p : ConfigRegs) (st : Word) (b : Bool) (i : Nat) (hp : p.FormatLegal)
    (hr : st.toNat < 2 ^ p.width.toNat) :
    ((st >>> 1) ||| (bitWord b <<< (p.width.toNat - 1))).getLsbD i =
      if i + 1 = p.width.toNat then b else st.getLsbD (i + 1) := by
  have hw := formatLegal_width p hp
  rw [BitVec.getLsbD_or, BitVec.getLsbD_ushiftRight, BitVec.getLsbD_shiftLeft, bitWord_getLsbD, Nat.add_comm 1 i]
  by_cases h : i + 1 = p.width.toNat
  · rw [if_pos h, getLsbD_of_lt_two_pow st _ (i + 1) hr (by omega)]
    have h1 : i < 32 := by omega
    have h2 : ¬ i < p.width.toNat - 1 := by omega
    have h3 : i - (p.width.toNat - 1) = 0 := by omega
    simp [h1, h2, h3]
  · rw [if_neg h]
    by_cases h2 : i < p.width.toNat - 1
    · simp [h2]
    · have h3 : i - (p.width.toNat - 1) ≠ 0 := by omega
      simp [h3]

/-- A state shifted left within W bits with `b` inserted at bit 0. -/
theorem shiftLeft_insert_getLsbD (p : ConfigRegs) (st : Word) (b : Bool) (i : Nat) (hp : p.FormatLegal) :
    (((st <<< 1) &&& maskW p.width.toNat) ||| bitWord b).getLsbD i =
      if i = 0 then b else (decide (i < p.width.toNat) && st.getLsbD (i - 1)) := by
  have hw := formatLegal_width p hp
  rw [BitVec.getLsbD_or, BitVec.getLsbD_and, maskW_getLsbD _ _ hw.2, BitVec.getLsbD_shiftLeft, bitWord_getLsbD]
  by_cases h : i = 0
  · subst h; simp
  · by_cases h2 : i < p.width.toNat
    · have h3 : i < 32 := by omega
      simp [h, h2, h3]
    · simp [h, h2]

/-! ## The feedback bits, split at the end that moves -/

/-- f of Advance: bit 0 of the state, and the taps above it. -/
theorem feedback_split (p : ConfigRegs) (st : Word) (hp : p.FormatLegal) (hr : st.toNat < 2 ^ p.width.toNat) :
    feedback p st = (st.getLsbD 0 ^^ parityBelow ((st >>> 1) &&& (p.taps >>> 1)) (p.width.toNat - 1)) := by
  have hw := formatLegal_width p hp
  have hz : ∀ i, p.width.toNat ≤ i → (st &&& p.taps).getLsbD i = false := fun i hi => by
    rw [BitVec.getLsbD_and, getLsbD_of_lt_two_pow st _ i hr hi, Bool.false_and]
  rw [feedback, parity, parityBelow_eq _ p.width.toNat 32 hw.2 hz]
  obtain ⟨k, hk⟩ : ∃ k, p.width.toNat = k + 1 := ⟨p.width.toNat - 1, by omega⟩
  rw [hk, parityBelow_succ_shift, BitVec.getLsbD_and, formatLegal_taps_zero p hp, Bool.and_true, Nat.add_sub_cancel]
  congr 2
  apply BitVec.eq_of_getLsbD_eq
  intro i _
  simp [BitVec.getLsbD_ushiftRight]

/-- A bit of Revert's tap mask. -/
theorem revertTaps_getLsbD (p : ConfigRegs) (i : Nat) (hp : p.FormatLegal) :
    (revertTaps p).getLsbD i = (p.taps.getLsbD (i + 1) || decide (i + 1 = p.width.toNat)) := by
  have hw := formatLegal_width p hp
  rw [revertTaps, BitVec.getLsbD_or, BitVec.getLsbD_ushiftRight, BitVec.getLsbD_shiftLeft, Nat.add_comm 1 i]
  congr 1
  by_cases h : i + 1 = p.width.toNat
  · have h1 : i < 32 := by omega
    have h2 : ¬ i < p.width.toNat - 1 := by omega
    have h3 : i - (p.width.toNat - 1) = 0 := by omega
    simp [h, h1, h2, h3]
  · simp [h, BitVec.getLsbD_one]; omega

/-- g of Revert: bit W-1 of the state, and the taps below it. -/
theorem revert_feedback_split (p : ConfigRegs) (st : Word) (hp : p.FormatLegal) (hr : st.toNat < 2 ^ p.width.toNat) :
    parity (st &&& revertTaps p) =
      (st.getLsbD (p.width.toNat - 1) ^^ parityBelow (st &&& (p.taps >>> 1)) (p.width.toNat - 1)) := by
  have hw := formatLegal_width p hp
  have hz : ∀ i, p.width.toNat ≤ i → (st &&& revertTaps p).getLsbD i = false := fun i hi => by
    rw [BitVec.getLsbD_and, getLsbD_of_lt_two_pow st _ i hr hi, Bool.false_and]
  rw [parity, parityBelow_eq _ p.width.toNat 32 hw.2 hz]
  obtain ⟨k, hk⟩ : ∃ k, p.width.toNat = k + 1 := ⟨p.width.toNat - 1, by omega⟩
  rw [hk, parityBelow, BitVec.getLsbD_and, revertTaps_getLsbD p k hp, hk, Nat.add_sub_cancel]
  simp only [decide_true, Bool.or_true, Bool.and_true]
  congr 1
  apply parityBelow_congr
  intro i hi
  rw [BitVec.getLsbD_and, BitVec.getLsbD_and, revertTaps_getLsbD p i hp, BitVec.getLsbD_ushiftRight, Nat.add_comm 1 i, hk]
  have h2 : i ≠ k := by omega
  simp [h2]

/-! ## The shifts as numbers -/

/-- A value below 2^W shifted right with a bit inserted at W-1, as a number. -/
theorem shiftRight_insert_toNat (v : Word) (w : Nat) (b : Bool) (h1 : 1 ≤ w) (h2 : w ≤ 32) (hv : v.toNat < 2 ^ w) :
    ((v >>> 1) ||| (bitWord b <<< (w - 1))).toNat = v.toNat / 2 + (if b then 1 else 0) * 2 ^ (w - 1) := by
  have hp := two_pow_width w h1
  have h3 : 2 ^ (w - 1) < 2 ^ 32 := Nat.pow_lt_pow_right (by omega) (by omega)
  cases b
  · simp [bitWord, Nat.shiftRight_eq_div_pow]
  · rw [BitVec.toNat_or, BitVec.toNat_ushiftRight, BitVec.toNat_shiftLeft, bitWord_toNat, Nat.shiftLeft_eq,
      Nat.shiftRight_eq_div_pow, Nat.pow_one, if_pos rfl, Nat.one_mul, Nat.mod_eq_of_lt h3, Nat.or_comm]
    have h4 := Nat.two_pow_add_eq_or_of_lt (show v.toNat / 2 < 2 ^ (w - 1) by omega) 1
    rw [Nat.mul_one] at h4
    omega

/-- A value shifted left within W bits with a bit inserted at 0, as a number. -/
theorem shiftLeft_insert_toNat (v : Word) (w : Nat) (b : Bool) (h1 : 1 ≤ w) (h2 : w ≤ 32) :
    (((v <<< 1) &&& maskW w) ||| bitWord b).toNat = 2 * v.toNat % 2 ^ w + (if b then 1 else 0) := by
  have hp := two_pow_width w h1
  have hm : (maskW w).toNat = 2 ^ w - 1 := by
    rw [maskW, BitVec.toNat_ofNat, Nat.mod_eq_of_lt]
    have h3 : 2 ^ w ≤ 2 ^ 32 := Nat.pow_le_pow_right (by omega) h2
    have h4 : 0 < 2 ^ w := Nat.two_pow_pos w
    omega
  have hs : v.toNat * 2 ^ 1 % 2 ^ 32 % 2 ^ w = 2 * (v.toNat % 2 ^ (w - 1)) := by
    rw [Nat.mod_mod_of_dvd _ (Nat.pow_dvd_pow 2 h2), hp, Nat.mul_comm]
    simp [Nat.mul_mod_mul_left]
  have ht : 2 * v.toNat % 2 ^ w = 2 * (v.toNat % 2 ^ (w - 1)) := by rw [hp, Nat.mul_mod_mul_left]
  rw [BitVec.toNat_or, BitVec.toNat_and, hm, Nat.and_two_pow_sub_one_eq_mod, bitWord_toNat, BitVec.toNat_shiftLeft,
    Nat.shiftLeft_eq, hs, ht]
  cases b
  · simp
  · have h5 := Nat.two_pow_add_eq_or_of_lt (show 1 < 2 ^ 1 by omega) (v.toNat % 2 ^ (w - 1))
    simpa using h5.symm

end Sys2Proof.Machine
end

