-- ==== Sys2Proof/Laws/PerInstr.lean ====
section
/-! SUPPORT. The statements made per instruction, one lemma per constructor of `Instr`. Family TableRow: the word of an
instruction, whatever its operands, has the bits its row of spec/30_encoding.md R105 fixes. -/

namespace Sys2Proof

/-- A word made of fields has a row's bits as soon as its fields do. -/
theorem make_row (opc arg : BitVec 8) (data : Word) (maskArg : BitVec 8) (maskData : Word)
    (ha : arg &&& maskArg = 0#8) (hd : data &&& maskData = 0#32) :
    CmdWord.make opc arg data &&& (maskData ++ 0xFFFF#16 ++ maskArg ++ 0xFF#8) = CmdWord.make opc 0#8 0#32 := by
  have ho : opc &&& 0xFF#8 = opc := by rw [show 0xFF#8 = BitVec.allOnes 8 by decide, BitVec.and_allOnes]
  have h : CmdWord.make opc arg data &&& (maskData ++ 0xFFFF#16 ++ maskArg ++ 0xFF#8) =
      (data ++ 0#16 ++ arg ++ opc) &&& (maskData ++ 0xFFFF#16 ++ maskArg ++ 0xFF#8) := rfl
  rw [h, BitVec.and_append, BitVec.and_append, BitVec.and_append, ha, hd, ho, BitVec.zero_and]
  rfl

/-- A command that uses neither ARG nor DATA is the word of its opcode alone. -/
theorem make_opcode_only (opc : BitVec 8) (mask : CmdWord) (hm : mask = BitVec.allOnes 64) :
    CmdWord.make opc 0#8 0#32 &&& mask = CmdWord.make opc 0#8 0#32 := by
  rw [hm, BitVec.and_allOnes]

/-- TM_BIT's ARG has nothing at or above bit 3. -/
theorem tmBit_arg_high (bit : Bool) (dir : Direction) : (Instr.tmBit bit dir).argField &&& 0xF8#8 = 0#8 := by
  cases bit <;> cases dir <;> decide

namespace Laws.TableRow

/-- The word of an instruction has the bits its opcode table row fixes. -/
def Statement (i : Instr) : Prop := encode i &&& i.rowMask = i.rowMatch

theorem nop : Statement .nop := make_opcode_only 0x00#8 _ (by decide)

theorem cfgWrite (index : BitVec 8) (value : Word) : Statement (.cfgWrite index value) :=
  make_row 0x01#8 index value 0#8 0#32 (BitVec.and_zero) (BitVec.and_zero)

theorem read (index : BitVec 8) : Statement (.read index) :=
  make_row 0x02#8 index 0#32 0#8 0xFFFFFFFF#32 (BitVec.and_zero) (BitVec.zero_and)

theorem configure : Statement .configure := make_opcode_only 0x03#8 _ (by decide)

theorem decSample (a b : Sample) : Statement (.decSample a b) :=
  make_row 0x04#8 0#8 (frameData a b) 0xFF#8 0#32 (BitVec.zero_and) (BitVec.and_zero)

theorem mapLoad (pos : Word) : Statement (.mapLoad pos) :=
  make_row 0x05#8 0#8 pos 0xFF#8 0#32 (BitVec.zero_and) (BitVec.and_zero)

theorem encSample : Statement .encSample := make_opcode_only 0x06#8 _ (by decide)

theorem encLoad (pos : Word) : Statement (.encLoad pos) :=
  make_row 0x07#8 0#8 pos 0xFF#8 0#32 (BitVec.zero_and) (BitVec.and_zero)

theorem tmLoad (state : Word) : Statement (.tmLoad state) :=
  make_row 0x08#8 0#8 state 0xFF#8 0#32 (BitVec.zero_and) (BitVec.and_zero)

theorem tmAdvance : Statement .tmAdvance := make_opcode_only 0x09#8 _ (by decide)

theorem tmRevert : Statement .tmRevert := make_opcode_only 0x0A#8 _ (by decide)

theorem tmPeekNext : Statement .tmPeekNext := make_opcode_only 0x0B#8 _ (by decide)

theorem tmPeekPrev : Statement .tmPeekPrev := make_opcode_only 0x0C#8 _ (by decide)

theorem tmBit (bit : Bool) (dir : Direction) : Statement (.tmBit bit dir) :=
  make_row 0x0D#8 _ 0#32 0xF8#8 0xFFFFFFFF#32 (tmBit_arg_high bit dir) (BitVec.zero_and)

theorem tfConfig (alpha : Word) : Statement (.tfConfig alpha) :=
  make_row 0x0E#8 0#8 alpha 0xFF#8 0#32 (BitVec.zero_and) (BitVec.and_zero)

theorem tfUpdate (x : Word) : Statement (.tfUpdate x) :=
  make_row 0x0F#8 0#8 x 0xFF#8 0#32 (BitVec.zero_and) (BitVec.and_zero)

theorem tfPreview (x : Word) : Statement (.tfPreview x) :=
  make_row 0x10#8 0#8 x 0xFF#8 0#32 (BitVec.zero_and) (BitVec.and_zero)

end Laws.TableRow

end Sys2Proof
end

