-- ==== Sys2Proof/Laws/Run.lean ====
section
/-! SUPPORT. Runs of the machine: one step peeled off, and what holds of every state a run reaches. -/

namespace Sys2Proof.Machine

theorem run_succ_of_next (M : Host.Core) (n : Nat) (s t : M.State) (h : M.step s = .next t) :
    Host.Core.run M (n + 1) s = Host.Core.run M n t := by
  rw [Host.Core.run, h]

/-- A property that every step keeps holds of the state any run ends in, if every step from such a state is a next state. -/
theorem run_keeps (P : State → Prop) (hstep : ∀ s : State, P s → ∃ t : State, step s = .next t ∧ P t) (n : Nat) (s : State)
    (h : P s) : ∃ t : State, Host.Core.run Sys2Proof.core n s = .next t ∧ P t := by
  induction n generalizing s with
  | zero => exact ⟨s, rfl, h⟩
  | succ n ih =>
    obtain ⟨t, ht, hP⟩ := hstep s h
    obtain ⟨u, hu, hPu⟩ := ih t hP
    exact ⟨u, by rw [← hu]; exact run_succ_of_next Sys2Proof.core n s t ht, hPu⟩

end Sys2Proof.Machine
end

