-- ==== Sys2Proof/Tests/Slice0.lean ====
section
/-! SUPPORT. The model's own tests. Part 1: small tests, each about one word or one step, with expected values from
spec/95_test_vectors.md and the worked examples of the rules (the vector's id stands in the comment). Part 2: for every
obligation with hypotheses, a state and operands that meet them, clause by clause, at the ends of their ranges. -/

namespace Sys2Proof.Tests

open Sys2Proof Sys2Proof.Machine Sys2Proof.Spec

/-! ## Helpers -/

/-- Configuration T of spec/95_test_vectors.md. -/
def cfgT : ConfigRegs :=
  { ConfigRegs.stagedReset with
    f0 := 1#32, f1 := 1#32, sr := 48#32, width := 4#32, taps := 0x3#32, seed := 0x1#32, valid := 15#32 }

/-- The block as `SET_FORMAT 1, 1, 48, 4, 3, 1, 15` leaves it after reset. -/
def stagedT : State := { State.reset with staged := cfgT }

/-- The block after configuration T and CONFIGURE. -/
def stT : State :=
  { stagedT with
    act := cfgT, configured := true, map := { State.reset.map with s := 0x1#32 }, encSE := 0x1#32, tmS := 0x1#32 }

/-- `stT` with the test generator at `v`. -/
def stTm (v : Word) : State := { stT with tmS := v }

/-- FAULT forced to 1. -/
def stFault : State := { stT with fault := true }

/-- The state a command leaves, if it leaves one. -/
def after (o : Host.Outcome State Fault Refusal) : Option State :=
  match o with
  | .next t => some t
  | .fault _ => none
  | .refused _ => none

/-- LAST_ERR and the results after a command. -/
def report (o : Host.Outcome State Fault Refusal) : Option (ErrCode × Word × Word × Word) :=
  (after o).map fun t => (t.lastErr, t.res0, t.res1, t.res2)

/-- A command word presented from a state. -/
def present (s : State) (w : CmdWord) : State := { s with inputs := [.command w] }

/-! ## Part 1. Well-formedness -/

theorem test_wellFormed_refuses_tmBit_stopped :
    (Instr.tmBit false .stopped).wellFormed = false ∧ (Instr.tmBit true .stopped).wellFormed = false := by decide

theorem test_wellFormed_accepts_tmBit_forward_backward :
    (Instr.tmBit true .forward).wellFormed = true ∧ (Instr.tmBit false .backward).wellFormed = true := by decide

/-! ## Decoding: words written out from R100 and R104 (V-E1 to V-E20) -/

theorem test_decode_control :
    decode 0x0000000000000000#64 = .ok .nop ∧ decode 0x0000000400000301#64 = .ok (.cfgWrite 0x03#8 4#32) ∧
    decode 0x0000000000002002#64 = .ok (.read 0x20#8) ∧ decode 0x0000000000000003#64 = .ok .configure := ⟨rfl, rfl, rfl, rfl⟩

theorem test_decode_decoder_and_synthesizer :
    decode 0xFC1803E800000004#64 = .ok (.decSample 1000#16 (-1000#16)) ∧
    decode 0x0000000F00000005#64 = .ok (.mapLoad 0xF#32) ∧ decode 0x0000000000000006#64 = .ok .encSample ∧
    decode 0x0000000900000007#64 = .ok (.encLoad 0x9#32) := ⟨rfl, rfl, rfl, rfl⟩

theorem test_decode_generator :
    decode 0x8000000000000008#64 = .ok (.tmLoad 0x80000000#32) ∧ decode 0x0000000000000009#64 = .ok .tmAdvance ∧
    decode 0x000000000000000A#64 = .ok .tmRevert ∧ decode 0x000000000000000B#64 = .ok .tmPeekNext ∧
    decode 0x000000000000000C#64 = .ok .tmPeekPrev := ⟨rfl, rfl, rfl, rfl, rfl⟩

theorem test_decode_tmBit :
    decode 0x000000000000050D#64 = .ok (.tmBit true .backward) ∧ decode 0x000000000000030D#64 = .ok (.tmBit true .forward) ∧
    decode 0x000000000000020D#64 = .ok (.tmBit false .forward) ∧ decode 0x000000000000040D#64 = .ok (.tmBit false .backward) :=
  ⟨rfl, rfl, rfl, rfl⟩

theorem test_decode_filter :
    decode 0x000080000000000E#64 = .ok (.tfConfig 32768#32) ∧ decode 0xFFFFFF9C0000000F#64 = .ok (.tfUpdate (-100#32)) ∧
    decode 0x0000000700000010#64 = .ok (.tfPreview 7#32) := ⟨rfl, rfl, rfl⟩

theorem test_decode_rejects_reserved_words :
    decode 0x0000000000000011#64 = .error .reservedOpcode ∧ decode 0x00000000000000FF#64 = .error .reservedOpcode ∧
    decode 0x0000000000010000#64 = .error .reservedFieldNonzero ∧ decode 0x0000000000000100#64 = .error .unusedArgNonzero ∧
    decode 0x0000000100000000#64 = .error .unusedDataNonzero ∧ decode 0x0000000100000702#64 = .error .unusedDataNonzero ∧
    decode 0x0000000000000104#64 = .error .unusedArgNonzero ∧ decode 0x0000000100800001#64 = .error .reservedFieldNonzero ∧
    decode 0x0000000000000703#64 = .error .unusedArgNonzero := ⟨rfl, rfl, rfl, rfl, rfl, rfl, rfl, rfl, rfl⟩

theorem test_decode_rejects_tmBit_codes :
    decode 0x000000000000010D#64 = .error .badDirectionCode ∧ decode 0x000000000000070D#64 = .error .badDirectionCode ∧
    decode 0x000000000000090D#64 = .error .unusedArgNonzero := ⟨rfl, rfl, rfl⟩

theorem test_decodeBytes_little_endian :
    decodeBytes [0x01#8, 0x03#8, 0#8, 0#8, 0x04#8, 0#8, 0#8, 0#8] = .ok (.cfgWrite 0x03#8 4#32) ∧
    decodeBytes [0x01#8, 0x03#8] = .error .notOneWord := ⟨rfl, rfl⟩

theorem test_value_bytes_little_endian : -- R85; PRM_K1's reset value
    Word.toBytes 0x00015555#32 = [0x55#8, 0x55#8, 0x01#8, 0x00#8] ∧
    (frameData 1000#16 (-1000#16)).toBytes = [0xE8#8, 0x03#8, 0x18#8, 0xFC#8] := ⟨rfl, rfl⟩

theorem test_decodeTableWord :
    decodeTableWord 64 0x000000000000050D = some (.tmBit true .backward) ∧ decodeTableWord 64 0x11 = none ∧
    decodeTableWord 64 0xFC1803E800000004 = some (.decSample 1000#16 (-1000#16)) := ⟨rfl, rfl, rfl⟩

/-! ## One step from reset (column "LE if executed from reset" of spec/95_test_vectors.md 2.1) -/

theorem test_step_runs_fetch_word : -- V-E1
    (after (step (State.reset.withFetchWord 64 0x0000000400000301))).map (fun t => (t.lastErr, t.staged.width, t.inputs)) =
      some (.ok, 4#32, []) := by decide

theorem test_step_from_reset_codes : -- V-E3, V-E7, V-E9
    report (step (present State.reset 0xFC1803E800000004#64)) = some (.notConfigured, 0#32, 0#32, 0#32) ∧
    report (step (present State.reset 0xFFFFFF9C0000000F#64)) = some (.ok, 0xFFFFFF9C#32, 0#32, 0#32) ∧
    report (step (present State.reset 0x0000000000000011#64)) = some (.illegalCommand, 0#32, 0#32, 0#32) := by decide

/-! ## Control (V-K1 to V-K12, V-CF) -/

theorem test_nop_clears_last_err : -- V-K12
    (after (exec .nop { stT with lastErr := .badIndex })).map (·.lastErr) = some .ok := by decide

theorem test_cfgWrite_legalises : -- V-K4, V-K5
    (after (exec (.cfgWrite 0x11#8 3#32) { stT with encDir := .backward })).map (·.encDir) = some .stopped ∧
    (after (exec (.cfgWrite 0x12#8 40000#32) stT)).map (·.encAmp) = some 0x7FFF#15 := by decide

theorem test_cfgWrite_bad_index : -- V-K6, V-K7
    after (exec (.cfgWrite 0x20#8 5#32) stT) = some { stT with lastErr := .badIndex } ∧
    after (exec (.cfgWrite 0x40#8 5#32) stT) = some { stT with lastErr := .badIndex } := by decide

theorem test_read_values : -- V-K1, V-K2, V-K9
    report (exec (.read 0x0D#8) State.reset) = some (.ok, 0x00015555#32, 0#32, 0#32) ∧
    report (exec (.read 0x20#8) State.reset) = some (.ok, 0#32, 0#32, 0#32) ∧
    report (exec (.read 0x47#8) stT) = some (.ok, 0#32, 0#32, 0#32) := by decide

theorem test_read_status_and_reserved : -- V-K3, V-K8, V-K10
    report (exec (.read 0x20#8) { State.reset with lastErr := .invalidFormat }) = some (.ok, 0x00000100#32, 0#32, 0#32) ∧
    report (exec (.read 0x07#8) stT) = some (.badIndex, 0#32, 0#32, 0#32) ∧
    report (exec (.read 0x35#8) stT) = some (.badIndex, 0#32, 0#32, 0#32) := by decide

theorem test_configure_leaves_stT : after (exec .configure stagedT) = some stT := by decide -- V-CF1

theorem test_configure_errors : -- V-K3, V-CF12, V-CF14, V-CF24
    (after (exec .configure State.reset)).map (fun t => (t.lastErr, t.configured)) = some (.invalidFormat, false) ∧
    (after (exec .configure { stT with staged := { cfgT with valid := 16#32 } })).map (fun t => (t.lastErr, t.configured)) =
      some (.invalidFormat, false) ∧
    (after (exec .configure { stT with staged := { cfgT with aBase := 0#32 } })).map (fun t => (t.lastErr, t.configured)) =
      some (.invalidParameter, false) ∧
    (after (exec .configure { stT with staged := { cfgT with width := 33#32, aBase := 0#32 } })).map (·.lastErr) =
      some .invalidFormat := by decide

/-! ## Decoder (R216, V-C, V-D) -/

theorem test_decSample_first_frame : -- V-D1
    report (exec (.decSample 0#16 0#16) stT) = some (.ok, 0x1#32, 0x200#32, 0#32) := by decide

theorem test_channelStep_first_sample : -- V-C1
    (channelStep cfgT 1 .reset (-32768#16)).ch.base = ⟨0x80000000#32, true⟩ ∧
    (channelStep cfgT 1 .reset (-32768#16)).ch.side = .unknown := by decide

theorem test_pitch_input : -- V-C3 and sample 59 of R216
    pitchInput cfgT 1 24 = 65536 ∧ pitchInput cfgT 1 30 = 52428 ∧ pitchInput cfgT 1 1 = 1572864 ∧
    filterStep ⟨65536#32, true⟩ 52428 4096 = ⟨64716#32, true⟩ := by decide

theorem test_bit_decision : -- V-C4
    bitDecision cfgT 1 24 65536 = false ∧ bitDecision cfgT 1 25 65536 = true ∧ bitDecision cfgT 1 12 0x20000 = false ∧
    bitDecision cfgT 1 13 0x20000 = true := by decide

/-- A channel A output with a bit. -/
def outBit (b : Bool) : ChannelOut :=
  { ch := { Channel.reset with side := .below, havex := true }, xing := true, hasBit := true, bit := b, hadx := true,
    agePrev := 24#32 }

theorem test_mapperFeed_match : -- frame 74 of V-D2
    mapperFeed cfgT ⟨0x8#32, 0#32, 1#6, .forward⟩ false .forward (outBit false) =
      .ok ⟨⟨0x4#32, 0#32, 2#6, .forward⟩, true, true, true, false⟩ := rfl

theorem test_mapperFeed_reload : -- R244: a full window 0b1011 read forward replaces S on a mismatch
    mapperFeed cfgT ⟨0x8#32, 0x6#32, 3#6, .forward⟩ false .forward (outBit true) =
      .ok ⟨⟨0xB#32, 0xB#32, 4#6, .forward⟩, true, true, false, true⟩ := rfl

/-! ## Synthesizer (R287, V-S) -/

theorem test_encSample_forward_boundary : -- R287, FORWARD sample 32
    report (exec .encSample { stT with encDir := .forward, encPH := 0x7C001F00#32 }) =
      some (.ok, 0x3C0003FF#32, 0b11#32, 0x8#32) ∧
    (after (exec .encSample { stT with encDir := .forward, encPH := 0x7C001F00#32 })).map (·.encPH) =
      some 0x80002000#32 := ⟨rfl, rfl⟩

theorem test_encSample_backward : -- R287, BACKWARD samples 1 and 2
    (after (exec .encSample { stT with encDir := .backward })).map (fun t => (t.res0, t.res1, t.encPH, t.encSE)) =
      some (0xC0000000#32, 0b11#32, 0xFBFFFF00#32, 0x3#32) ∧
    (after (exec .encSample { stT with encDir := .backward, encPH := 0xFBFFFF00#32, encSE := 0x3#32 })).map
      (fun t => (t.res0, t.res1, t.encPH, t.encSE)) = some (0xC401FC00#32, 0b00#32, 0xF5555600#32, 0x3#32) := by decide

theorem test_encLoad : -- V-S5
    (after (exec (.encLoad 0xF#32) { stT with encPH := 5#32 })).map (fun t => (t.lastErr, t.encSE, t.encPH, t.res0)) =
      some (.ok, 0xF#32, 0#32, 0xF#32) ∧
    (after (exec (.encLoad 16#32) stT)).map (fun t => (t.lastErr, t.encSE)) = some (.invalidParameter, 0x1#32) := by decide

theorem test_tri_values : -- R287
    tri 0x20000000#32 16384 = 8192 ∧ tri 0x40000000#32 32767 = 32767 ∧ tri 0xC0000000#32 32767 = -32767 ∧
    tri 0xFFFFFFFF#32 16384 = 0 ∧ tri 0xE0000000#32 16384 = -8192 := by decide

/-! ## Generator (V-G) -/

theorem test_tmAdvance : -- V-G10, and V-G15
    (after (exec .tmAdvance (stTm 0x9#32))).map (fun t => (t.res0, t.res1, t.res2, t.tmS)) =
      some (0xC#32, 1#32, 1#32, 0xC#32) ∧
    (after (exec .tmAdvance State.reset)).map (·.lastErr) = some .notConfigured := by decide

theorem test_tmRevert : -- V-G11
    (after (exec .tmRevert (stTm 0x9#32))).map (fun t => (t.res0, t.res1, t.res2, t.tmS)) =
      some (0x2#32, 0#32, 1#32, 0x2#32) := by decide

theorem test_tmPeekNext : -- V-G8, V-X8
    (after (exec .tmPeekNext (stTm 0x9#32))).map (fun t => (t.res0, t.res1, t.res2, t.tmS)) =
      some (0xC#32, 1#32, 1#32, 0x9#32) ∧
    (after (exec .tmPeekNext (stTm 0#32))).map (fun t => (t.lastErr, t.fault)) = some (.lfsrZero, true) := by decide

theorem test_tmPeekPrev : -- V-G9
    (after (exec .tmPeekPrev (stTm 0x9#32))).map (fun t => (t.res0, t.res1, t.res2, t.tmS)) =
      some (0x2#32, 0#32, 1#32, 0x9#32) := by decide

theorem test_tmLoad : -- V-G13, V-G14, V-G16
    (after (exec (.tmLoad 16#32) (stTm 0x9#32))).map (fun t => (t.lastErr, t.tmS)) = some (.invalidParameter, 0x9#32) ∧
    (after (exec (.tmLoad 15#32) (stTm 0x9#32))).map (fun t => (t.lastErr, t.tmS, t.res0)) = some (.ok, 0xF#32, 0xF#32) ∧
    (after (exec (.tmLoad 0#32) State.reset)).map (·.lastErr) = some .notConfigured := by decide

theorem test_generator_width_32 : -- V-G6
    (match advance { cfgT with width := 32#32, taps := 0x80200003#32 } 0x80000000#32 with
      | .ok g => (g.next, g.fb) | .error _ => (0#32, false)) = (0xC0000000#32, true) ∧
    (match revert { cfgT with width := 32#32, taps := 0x80200003#32 } 0x80000000#32 with
      | .ok g => (g.next, g.fb) | .error _ => (0#32, false)) = (0x00000001#32, true) := by decide

/-! ## Mapper (V-M) -/

theorem test_tmBit_forward : -- V-M1, V-M3
    (after (exec (.tmBit true .forward) (stTm 0x1#32))).map (fun t => (t.res0, t.res1)) = some (0x8#32, 0b11#32) ∧
    (after (exec (.tmBit true .forward) (stTm 0x4#32))).map (fun t => (t.res0, t.res1)) = some (0x2#32, 0b10#32) := by decide

theorem test_tmBit_backward : -- V-M2, V-M6
    (after (exec (.tmBit true .backward) (stTm 0x8#32))).map (fun t => (t.res0, t.res1)) = some (0x1#32, 0b11#32) ∧
    (after (exec (.tmBit false .backward) (stTm 0x7#32))).map (fun t => (t.res0, t.res1)) = some (0xF#32, 0b01#32) := by decide

theorem test_mapLoad : -- V-M7, V-M9
    (after (exec (.mapLoad 0xF#32) { stT with map := ⟨0x9#32, 0x5#32, 4#6, .forward⟩, sync := ⟨true, 20#8, true⟩ })).map
      (fun t => (t.lastErr, t.map, t.sync, t.res0, t.res1)) =
      some (.ok, ⟨0xF#32, 0#32, 0#6, .stopped⟩, ⟨false, 0#8, false⟩, 0xF#32, 0#32) ∧
    (after (exec (.mapLoad 0#32) stT)).map (fun t => (t.lastErr, t.map.s)) = some (.invalidParameter, 0x1#32) := by decide

/-! ## Filter (V-F) -/

theorem test_filterStep_rounds_toward_zero : -- V-F2, V-F3, V-F5, V-F6
    (filterStep ⟨7#32, true⟩ 0 32768).s = 3#32 ∧ (filterStep ⟨-7#32, true⟩ 0 32768).s = -3#32 ∧
    (filterStep ⟨0x7FFFFFFF#32, true⟩ (-2147483648) 1).s.toInt = 2147418111 ∧
    (filterStep ⟨0x80000000#32, true⟩ 2147483647 1).s.toInt = -2147418112 := by decide

theorem test_tfConfig : -- V-F9, V-F11
    (after (exec (.tfConfig 65537#32) State.reset)).map (fun t => (t.lastErr, t.tfAlpha)) =
      some (.invalidParameter, 0x8000#32) ∧
    (after (exec (.tfConfig 65536#32) { State.reset with tf := ⟨9#32, true⟩ })).map
      (fun t => (t.lastErr, t.res0, t.tfAlpha, t.tf)) = some (.ok, 0x10000#32, 65536#32, ⟨0#32, false⟩) := by decide

theorem test_tfUpdate : -- V-F12, V-F15
    (after (exec (.tfUpdate (-5#32)) { State.reset with tfAlpha := 1#32 })).map (fun t => (t.res0, t.tf)) =
      some (0xFFFFFFFB#32, ⟨-5#32, true⟩) ∧
    (after (exec (.tfUpdate 1000#32) { State.reset with tfAlpha := 16384#32, tf := ⟨-1000#32, true⟩ })).map (·.res0) =
      some 0xFFFFFE0C#32 := by decide

theorem test_tfPreview : -- V-F13, V-F14
    (after (exec (.tfPreview 0#32) { State.reset with tf := ⟨50#32, true⟩ })).map (fun t => (t.res0, t.tf)) =
      some (0x19#32, ⟨50#32, true⟩) ∧
    (after (exec (.tfPreview 7#32) State.reset)).map (fun t => (t.res0, t.tf)) = some (7#32, ⟨0#32, false⟩) := by decide

/-! ## Gating (V-X3, V-X4, V-X6, V-X7) -/

theorem test_gating_priority :
    (after (exec (.mapLoad 0#32) stFault)).map (·.lastErr) = some .faulted ∧
    (after (exec (.decSample 0#16 0#16) { stFault with configured := false })).map (·.lastErr) = some .notConfigured ∧
    (after (exec (.tfUpdate 5#32) stFault)).map (·.lastErr) = some .ok ∧
    (after (exec .configure stFault)).map (fun t => (t.lastErr, t.fault)) = some (.ok, false) := by decide

/-! ## Part 2. Witnesses -/

theorem cfgT_legal : cfgT.Legal := ⟨by decide, by decide⟩

/-- `Ready` holds of any configured state with configuration T and generators in range. -/
theorem ready_of (s : State) (hc : s.configured = true) (ha : s.act = cfgT) (hs : s.SessionsInRange) (hf : s.fault = false)
    (h0 : 0 ≤ s.ch0.pitch.s.toInt) (h1 : 0 ≤ s.ch1.pitch.s.toInt) (hl : 1 ≤ s.tfAlpha.toNat) (hu : s.tfAlpha.toNat ≤ 65536) :
    Ready s := ⟨hc, fun _ => ⟨by rw [ha]; exact cfgT_legal, hs⟩, hf, h0, h1, hl, hu⟩

theorem stT_ready : Ready stT :=
  ready_of stT rfl rfl (by decide) rfl (by decide) (by decide) (by decide) (by decide)

theorem witness_DecodeOfEncodeIsIdentity : (Instr.tmBit true .backward).wellFormed = true := rfl

theorem witness_EncodeOfDecodeIsIdentity : decode 0x000000000000050D#64 = .ok (.tmBit true .backward) := rfl

/-- R103 at its edge: OPC 0x10 is legal, OPC 0x11 is not. -/
theorem witness_LegalWordsExactlyAndOthersRejected : LegalWord 0x10#64 ∧ ¬ LegalWord 0x11#64 := by
  unfold LegalWord usesArg usesData opcOf argOf rsvOf dataOf
  decide

theorem witness_OperandsAreTheirFields :
    decode 0xFFFFFFFF00000F01#64 = .ok (.cfgWrite 0x0F#8 0xFFFFFFFF#32) ∧ decode 0x000000000000FF02#64 = .ok (.read 0xFF#8) ∧
    decode 0xFFFF800000000004#64 = .ok (.decSample 0x8000#16 0xFFFF#16) ∧
    decode 0xFFFFFFFF00000005#64 = .ok (.mapLoad 0xFFFFFFFF#32) ∧
    decode 0x000000000000050D#64 = .ok (.tmBit true .backward) := ⟨rfl, rfl, rfl, rfl, rfl⟩

theorem witness_ByteLinkIsLittleEndian :
    (0 < 8 ∧ 7 < 8) ∧ ([] : List Byte).length ≠ 8 ∧ [0#8, 0#8, 0#8, 0#8, 0#8, 0#8, 0#8].length ≠ 8 := by decide

theorem witness_WordsValuesAndFramesOnByteLink : (0 < 8 ∧ 7 < 8) ∧ (0 < 4 ∧ 3 < 4) ∧ Ready stT :=
  ⟨by decide, by decide, stT_ready⟩

theorem witness_StepRunsDecodedCommand :
    (present State.reset 0x10#64).inputs = [.command 0x10#64] ∧ decode 0x10#64 = .ok (.tfPreview 0#32) := ⟨rfl, rfl⟩

theorem witness_IdleStepChangesNothing : State.reset.inputs = [] := rfl

theorem witness_EventsAreTakenInOrder :
    ∃ t : State, step { stT with inputs := [.reset, .command 0#64] } = .next t ∧ t.inputs = [.command 0#64] := ⟨_, rfl, rfl⟩

theorem witness_HardwareResetSetsEveryRegister :
    ({ stT with inputs := [.reset] } : State).inputs = .reset :: [] ∧ State.reset.configured = false ∧
    (∃ t, exec (.tmLoad 1#32) State.reset = .next t ∧ t.configured = false) ∧
    (∃ t, exec (.cfgWrite 0x05#8 1#32) State.reset = .next t ∧ t.configured = false) :=
  ⟨rfl, rfl, ⟨_, rfl, rfl⟩, ⟨_, rfl, rfl⟩⟩

theorem witness_NopOnlyReportsOk : opcOf 0x100#64 = 0 ∧ 0x100#64 ≠ 0#64 := by decide

theorem witness_CfgWriteWritesOneRegister :
    ((0x07#8).toNat = 0x07 ∧ 0x12 < (0x13#8).toNat ∧ 0x12 < (0xFF#8).toNat) ∧ opcOf 0x0000000100800001#64 = 0x01 ∧
    rsvOf 0x0000000100800001#64 ≠ 0 := by decide

theorem witness_ReadReturnsEveryRegister :
    ((0x00#8).toNat, 0#32) ∈ readRows State.reset ∧ ((0x5B#8).toNat, 0x8000#32) ∈ readRows State.reset ∧
    (∀ v, ((0x07#8).toNat, v) ∉ readRows State.reset) ∧ (∀ v, ((0x5C#8).toNat, v) ∉ readRows State.reset) ∧
    opcOf 0x0000000100000702#64 = 0x02 ∧ dataOf 0x0000000100000702#64 ≠ 0 ∧ rsvOf 0x0000000000012002#64 ≠ 0 := by
  refine ⟨by decide, by decide, ?_, ?_, by decide, by decide, by decide⟩ <;>
    · intro v
      simp [readRows, configRows, channelRows, unitRows]

theorem witness_ConfigureActivatesOrClearsConfigured :
    stagedT.staged.Legal ∧ ¬ State.reset.staged.FormatLegal ∧ ¬ ({ cfgT with valid := 16#32 } : ConfigRegs).FormatLegal ∧
    ({ cfgT with aPitch := 65537#32 } : ConfigRegs).FormatLegal ∧ ¬ ({ cfgT with aPitch := 65537#32 } : ConfigRegs).ParamsLegal ∧
    opcOf 0x703#64 = 0x03 ∧ 0x703#64 ≠ 0x3#64 :=
  ⟨cfgT_legal, by decide, by decide, by decide, by decide, by decide, by decide⟩

theorem witness_NotConfiguredGatesSessions :
    Instr.tmAdvance.wellFormed = true ∧ State.reset.configured = false ∧ needsConfig .tmAdvance = true ∧
    needsConfig (.tfUpdate 0#32) = false := ⟨rfl, rfl, rfl, rfl⟩

theorem witness_FaultIsStickyAndGates :
    stFault.fault = true ∧ stFault.configured = true ∧ needsConfig .encSample = true ∧ needsConfig .nop = false ∧
    (∃ t, exec .encSample stFault = .next t) ∧ (∃ t, exec .nop stFault = .next t) ∧
    (∃ t, step { stFault with inputs := [.reset] } = .next t ∧ t.fault = false) ∧
    (∃ t, step (present stFault 0x3#64) = .next t ∧ t.fault = false) :=
  ⟨rfl, rfl, rfl, rfl, ⟨_, rfl⟩, ⟨_, rfl⟩, ⟨_, rfl, rfl⟩, ⟨_, rfl, rfl⟩⟩

/-- A channel that crosses with a bit on the sample -1000: side ABOVE, one crossing before. -/
def chCross : Channel := { Channel.reset with base := ⟨0#32, true⟩, side := .above, cnt := 23#32, havex := true }

/-- A channel on the side BELOW that crossed 11 samples ago, and stays there on -1000. -/
def chOther : Channel := { chCross with side := .below, cnt := 11#32 }

theorem witness_ZeroStateRaisesLfsrZero :
    ((stTm 0#32).configured = true ∧ (stTm 0#32).fault = false ∧ (stTm 0#32).tmS = 0#32) ∧
    (encCrosses { stT with encDir := .backward, encSE := 0#32 } = true) ∧
    ((channelStep cfgT 1 chCross (-1000#16)).xing = true ∧ (channelStep cfgT 1 chCross (-1000#16)).hasBit = true ∧
      phaseStep cfgT .stopped (channelStep cfgT 1 chCross (-1000#16)) (channelStep cfgT 1 chOther (-1000#16)) ≠ .stopped ∧
      (after (exec (.decSample (-1000#16) (-1000#16))
        { stT with map := { stT.map with s := 0#32 }, ch0 := chCross, ch1 := chOther })).map (·.lastErr) =
          some .lfsrZero) := by decide

theorem witness_FailingCommandIsAllOrNothing :
    (∃ t, exec (.tmLoad 0#32) stT = .next t ∧ t.lastErr ≠ .ok) ∧
    (∃ t, exec .configure State.reset = .next t ∧ t.lastErr ≠ .ok) ∧ decode 0x11#64 = .error .reservedOpcode :=
  ⟨⟨_, rfl, by decide⟩, ⟨_, rfl, by decide⟩, rfl⟩

theorem witness_CommandsReportTheirCodes : (Instr.tmBit false .forward).wellFormed = true := rfl

theorem witness_ConfiguredFollowsConfigure :
    (∃ t, exec .nop stT = .next t) ∧ (∃ t, exec .configure stagedT = .next t ∧ t.configured = true) :=
  ⟨⟨_, rfl⟩, ⟨_, rfl, rfl⟩⟩

theorem witness_ConfigurationIsDoubleBuffered :
    (∃ t, exec .configure stagedT = .next t ∧ t.act ≠ stagedT.act) ∧
    (∃ t, exec (.cfgWrite 0x0F#8 7#32) stT = .next t ∧ t.staged ≠ stT.staged ∧ (0x0F#8).toNat ≤ 0x0F) ∧
    (∃ t, exec (.cfgWrite 0x10#8 7#32) stT = .next t ∧ t.encSpeed ≠ stT.encSpeed) :=
  ⟨⟨_, rfl, by decide⟩, ⟨_, rfl, by decide⟩, ⟨_, rfl, by decide⟩⟩

theorem witness_UnitsChangeOnlyByTheirCommands :
    ∃ t, exec (.tmLoad 2#32) stT = .next t ∧ Instr.tmLoad 2#32 ≠ .configure ∧ Instr.tmLoad 2#32 ≠ .encSample :=
  ⟨_, rfl, by decide⟩

theorem witness_ReadHasNoSideEffect : (0x00#8 ≠ 0x20#8) ∧ 0xFF#8 ≠ 0x20#8 := by decide

theorem witness_TfConfigStoresFactor :
    (1 ≤ (1#32).toNat ∧ (1#32).toNat ≤ 65536) ∧ (1 ≤ (65536#32).toNat ∧ (65536#32).toNat ≤ 65536) ∧ (0#32).toNat = 0 ∧
    65536 < (65537#32).toNat ∧ (opcOf 0x10E#64 = 0x0E ∧ argOf 0x10E#64 ≠ 0) ∧ rsvOf 0x1000E#64 ≠ 0 := by decide

theorem witness_TfUpdateFiltersInput : (opcOf 0x10F#64 = 0x0F ∧ argOf 0x10F#64 ≠ 0) ∧ opcOf 0x1000F#64 = 0x0F ∧ rsvOf 0x1000F#64 ≠ 0 := by
  decide

theorem witness_TfPreviewLeavesFilter : (opcOf 0x110#64 = 0x10 ∧ argOf 0x110#64 ≠ 0) ∧ opcOf 0x10010#64 = 0x10 ∧ rsvOf 0x10010#64 ≠ 0 := by
  decide

theorem witness_FilterStepStaysBetween :
    (1 ≤ 1 ∧ 1 ≤ 65536 ∧ (-(2 ^ 31) : Int) ≤ -2147483648 ∧ (2147483647 : Int) < 2 ^ 31) ∧
    (⟨5#32, false⟩ : FilterState).init = false ∧ (⟨0x7FFFFFFF#32, true⟩ : FilterState).init = true := by decide

theorem witness_FilterConvergesToConstantInput :
    (⟨0x80000000#32, true⟩ : FilterState).init = true ∧ (⟨0x80000000#32, true⟩ : FilterState).s.toInt ≠ 2147483647 ∧
    ((⟨7#32, true⟩ : FilterState).s.toInt - 0).natAbs ≤ 7 ∧ (1 ≤ 32768 ∧ 32768 ≤ 65536) ∧ (-(2 ^ 31) : Int) ≤ 0 := by decide

theorem witness_Gated :
    State.reset.configured = false ∧ stFault.configured = true ∧ stFault.fault = true := ⟨rfl, rfl, rfl⟩

theorem witness_TmLoadLoadsGenerator :
    (stT.configured = true ∧ stT.fault = false) ∧ (stT.act.InRange 1#32 ∧ stT.act.InRange 15#32) ∧
    (¬ stT.act.InRange 0#32 ∧ ¬ stT.act.InRange 16#32) ∧ (opcOf 0x108#64 = 0x08 ∧ argOf 0x108#64 ≠ 0) ∧ rsvOf 0x10008#64 ≠ 0 := by
  decide

theorem witness_TmAdvanceAndPeekNext :
    Ready stT ∧ (stTm 0#32).tmS = 0#32 ∧ (opcOf 0x109#64 = 0x09 ∧ 0x109#64 ≠ 0x9#64) ∧ (opcOf 0x10B#64 = 0x0B ∧ 0x10B#64 ≠ 0xB#64) :=
  ⟨stT_ready, rfl, by decide, by decide⟩

theorem witness_TmRevertAndPeekPrev :
    Ready stT ∧ (stTm 0#32).tmS = 0#32 ∧ (opcOf 0x10A#64 = 0x0A ∧ 0x10A#64 ≠ 0xA#64) ∧ (opcOf 0x10C#64 = 0x0C ∧ 0x10C#64 ≠ 0xC#64) :=
  ⟨stT_ready, rfl, by decide, by decide⟩

/-- The widths at their ends: W = 1 and W = 32 are legal formats with states in range. -/
theorem witness_AdvanceAndRevertAreInverse :
    (cfgT.FormatLegal ∧ cfgT.InRange 1#32 ∧ cfgT.InRange 15#32) ∧
    (({ cfgT with width := 1#32, taps := 1#32, valid := 1#32 } : ConfigRegs).FormatLegal ∧
      ({ cfgT with width := 1#32, taps := 1#32, valid := 1#32 } : ConfigRegs).InRange 1#32) ∧
    (({ cfgT with width := 32#32, taps := 0x80200003#32 } : ConfigRegs).FormatLegal ∧
      ({ cfgT with width := 32#32, taps := 0x80200003#32 } : ConfigRegs).InRange 0xFFFFFFFF#32) := by decide

theorem witness_TmBitStepsAndCompares :
    Ready stT ∧ Direction.forward ≠ .stopped ∧ (stTm 0#32).tmS = 0#32 ∧
    (opcOf 0x10D#64 = 0x0D ∧ argOf 0x10D#64 / 2 % 4 = 0) ∧ (opcOf 0x70D#64 = 0x0D ∧ argOf 0x70D#64 / 2 % 4 = 3) ∧
    (opcOf 0x90D#64 = 0x0D ∧ argOf 0x90D#64 / 8 ≠ 0) ∧ (opcOf 0x1030D#64 = 0x0D ∧ rsvOf 0x1030D#64 ≠ 0) ∧
    (opcOf 0x10000030D#64 = 0x0D ∧ dataOf 0x10000030D#64 ≠ 0) :=
  ⟨stT_ready, by decide, rfl, by decide, by decide, by decide, by decide, by decide⟩

theorem witness_MapLoadResetsMapper :
    (stT.configured = true ∧ stT.fault = false ∧ stT.act.InRange 15#32 ∧ ¬ stT.act.InRange 16#32) ∧
    (opcOf 0x105#64 = 0x05 ∧ argOf 0x105#64 ≠ 0) ∧ (opcOf 0x10005#64 = 0x05 ∧ rsvOf 0x10005#64 ≠ 0) := by decide

theorem witness_StepCountLaw :
    cfgT.FormatLegal ∧ cfgT.InRange 9#32 ∧ ([] : List Bool).length = ([] : List Bool).length ∧
    [true, false].length = [false, false].length := by decide

theorem witness_ChannelSideAndCrossing :
    (1 ≤ cfgT.aBase.toNat ∧ cfgT.aBase.toNat ≤ 65536) ∧
    (1 ≤ ({ cfgT with aBase := 65536#32 } : ConfigRegs).aBase.toNat ∧ ({ cfgT with aBase := 65536#32 } : ConfigRegs).aBase.toNat ≤ 65536) := by
  decide

theorem witness_FirstCrossingGivesNoBit :
    ((channelStep cfgT 1 { chCross with havex := false } (-1000#16)).xing = true ∧
      ({ chCross with havex := false } : Channel).havex = false) ∧ (channelStep cfgT 1 chCross 1000#16).xing = false := by decide

theorem witness_LaterCrossingGivesWidthBitPitch :
    (1 ≤ 1 ∧ 1 ≤ cfgT.aPitch.toNat ∧ cfgT.aPitch.toNat ≤ 65536) ∧ (channelStep cfgT 1 chCross (-1000#16)).xing = true ∧
    chCross.havex = true ∧ (channelStep cfgT 1 chCross (-1000#16)).bit = false := by decide

/-- A silent channel whose counter is about to reach STOP_TIMEOUT (4096), and one a sample before. -/
theorem witness_StopDecayFeedsZero :
    ((channelStep cfgT 1 { chOther with cnt := 4095#32 } (-1000#16)).xing = false ∧
      cfgT.stopTimeout.toNat ≤ counted { chOther with cnt := 4095#32 }) ∧
    ((channelStep cfgT 1 { chOther with cnt := 4094#32 } (-1000#16)).xing = false ∧
      counted { chOther with cnt := 4094#32 } < cfgT.stopTimeout.toNat) := by decide

/-- Each case of the phase analyzer: both cross; one crosses, reliable with the sides different and equal, or not reliable;
none crosses, with the counters at and below STOP_TIMEOUT. -/
theorem witness_PhaseAnalyzerSelectsDirection :
    let c : ChannelOut := outBit false
    let o : ChannelOut := { outBit false with ch := { (outBit false).ch with cnt := 23#32 }, xing := false, hasBit := false }
    let oAbove : ChannelOut := { o with ch := { o.ch with side := .above } }
    let oLate : ChannelOut := { o with ch := { o.ch with cnt := 24#32 } }
    let quiet : ChannelOut := { o with ch := { o.ch with cnt := 4096#32 } }
    (c.xing = true ∧ o.xing = false) ∧ Reliable c o ∧ Reliable c oAbove ∧ oAbove.ch.side ≠ c.ch.side ∧
    o.ch.side = c.ch.side ∧ ¬ Reliable c oLate ∧
    (cfgT.stopTimeout.toNat ≤ quiet.ch.cnt.toNat ∧ o.ch.cnt.toNat < cfgT.stopTimeout.toNat) := by
  unfold Reliable
  decide

theorem witness_MapperFeedStepsOrReloads :
    (cfgT.FormatLegal ∧ cfgT.InRange 15#32 ∧ (15#32).toNat < 2 ^ cfgT.width.toNat ∧ (4#6).toNat ≤ cfgT.width.toNat) ∧
    ((outBit true).xing = true ∧ (outBit true).hasBit = true) ∧
    ¬ ((crossFirst chCross).xing = true ∧ (crossFirst chCross).hasBit = true) := by decide

theorem witness_SyncUpdateCountsGoodBits :
    let stepped : FeedOut := ⟨⟨14#32, 0#32, 1#6, .forward⟩, true, true, true, false⟩
    (stepped.fed = true ∧ stepped.isMatch = true ∧ stepped.map.s.toNat < cfgT.valid.toNat) ∧
    cfgT.valid.toNat ≤ (15#32).toNat ∧ ({ stepped with isMatch := false } : FeedOut).isMatch = false ∧
    ({ stepped with fed := false } : FeedOut).fed = false := by decide

theorem witness_DecSampleCompletesWithItsStages :
    Ready stT ∧ (opcOf 0x104#64 = 0x04 ∧ argOf 0x104#64 ≠ 0) ∧ (opcOf 0x10004#64 = 0x04 ∧ rsvOf 0x10004#64 ≠ 0) :=
  ⟨stT_ready, by decide, by decide⟩

/-- A ready state in which the next frame crosses, steps the mapper and moves everything RES1 reports. -/
theorem witness_DecSampleResultFields :
    Ready { stT with ch0 := chCross, ch1 := chOther } ∧
    (after (exec (.decSample (-1000#16) (-1000#16)) { stT with ch0 := chCross, ch1 := chOther })).map
      (fun t => t.res1.getLsbD 10) = some true :=
  ⟨ready_of _ rfl rfl (by decide) rfl (by decide) (by decide) (by decide) (by decide), by decide +kernel⟩

theorem witness_FullWindowIsGeneratorState : cfgT.FormatLegal ∧ cfgT.InRange 1#32 ∧ (15#32).toNat < 2 ^ cfgT.width.toNat := by
  decide

theorem witness_EncLoadSeedsEncoder :
    (stT.configured = true ∧ stT.fault = false ∧ stT.act.InRange 15#32 ∧ ¬ stT.act.InRange 0#32) ∧
    (opcOf 0x107#64 = 0x07 ∧ argOf 0x107#64 ≠ 0) ∧ (opcOf 0x10007#64 = 0x07 ∧ rsvOf 0x10007#64 ≠ 0) := by decide

theorem witness_EncSampleEmitsFrameAndMoves : Ready stT ∧ opcOf 0x106#64 = 0x06 ∧ 0x106#64 ≠ 0x6#64 :=
  ⟨stT_ready, by decide, by decide⟩

theorem witness_TriangleWaveShape : 32767 ≤ 32767 := by decide

theorem witness_EncoderStepsOncePerBoundary :
    Ready { stT with encDir := .forward } ∧ Ready { stT with encDir := .backward } ∧ stT.encDir = .stopped ∧
    encCrosses { stT with encDir := .forward, encPH := 0x7C001F00#32 } = true ∧
    encCrosses { stT with encDir := .backward } = true :=
  ⟨ready_of _ rfl rfl (by decide) rfl (by decide) (by decide) (by decide) (by decide),
   ready_of _ rfl rfl (by decide) rfl (by decide) (by decide) (by decide) (by decide), rfl, by decide, by decide⟩

theorem witness_InvariantsKeptByEveryStep :
    (present stT 0x9#64).Inv ∧ ∃ t, step (present stT 0x9#64) = .next t ∧ t.tmS = 0x8#32 :=
  ⟨(ready_of (present stT 0x9#64) rfl rfl (by decide) rfl (by decide) (by decide) (by decide) (by decide)).2, ⟨_, rfl, rfl⟩⟩

/-- A tracking decoder one bit before a frame that reads a bit. -/
def stTracking : State :=
  { stT with map := ⟨0x8#32, 0#32, 4#6, .forward⟩, sync := ⟨true, 16#8, true⟩, ch0 := chCross, ch1 := chOther,
             inputs := [.command 0xFC18FC1800000004#64] }

theorem witness_TrackingIsEarnedAlways :
    stTracking.Inv ∧ stTracking.TrackingEarned ∧ stTracking.sync.tracking = true ∧ ∃ t, step stTracking = .next t :=
  ⟨(ready_of stTracking rfl rfl (by decide) rfl (by decide) (by decide) (by decide) (by decide)).2,
   fun _ => by decide, rfl, ⟨_, rfl⟩⟩

/-- The tracking decoder after a CONFIGURE that failed: not configured, TRACKING kept (R312), a MAP_LOAD presented. -/
def stTrackingUnconfigured : State := { stTracking with configured := false, inputs := [.command 0x0000000F00000005#64] }

theorem witness_TrackingIsEarnedAlways_not_configured :
    stTrackingUnconfigured.Inv ∧ stTrackingUnconfigured.TrackingEarned ∧
    ∃ t, step stTrackingUnconfigured = .next t ∧ t.sync.tracking = true ∧ t.lastErr = .notConfigured :=
  ⟨⟨fun h => absurd h (by decide), rfl, by decide, by decide, by decide, by decide⟩, fun _ => by decide, ⟨_, rfl, rfl, rfl⟩⟩

end Sys2Proof.Tests
end

/-! PROOFS of family 10_state: the fields of STATUS (O17) and the invariants of R47 (O57). The invariants are proved in
layers: the generator stays in [1, 2^W - 1], the pitch filter stays nonnegative, the mapper and encoder keep their session
registers in range and never reach the zero state, so every command either keeps `State.Inv` or fails with a code other
than LFSR_ZERO. -/

namespace Sys2Proof.Machine

open Sys2Proof.Spec

/-! ## STATUS (R33) -/

/-- READ of index 0x20 reports the STATUS word of the state before the command. -/
theorem exec_read_status (s : State) : exec (.read 0x20#8) s = .next (succeed { s with res0 := statusWord s }) := rfl

theorem statusValid_iff (s : State) :
    statusValid s = true ↔ s.configured = true ∧ s.map.s.toNat < s.act.valid.toNat := by
  rw [statusValid, Bool.and_eq_true, isValid_iff]

/-- The fields of STATUS, read off its value as a number. -/
theorem statusWord_fields (s : State) :
    (statusWord s).getLsbD 0 = s.configured ∧ (statusWord s).getLsbD 1 = s.sync.tracking ∧
    (statusWord s).extractLsb' 2 2 = s.dir.code ∧ (statusWord s).getLsbD 4 = statusValid s ∧
    (statusWord s).getLsbD 5 = s.sync.lastMatch ∧ (statusWord s).getLsbD 6 = s.fault ∧ (statusWord s).getLsbD 7 = false ∧
    (statusWord s).extractLsb' 8 4 = s.lastErr.code ∧ (statusWord s).extractLsb' 12 20 = 0#20 := by
  have hw := statusWord_toNat s
  have h0 := s.configured.toNat_le
  have h1 := s.sync.tracking.toNat_le
  have h2 := direction_code_lt s.dir
  have h4 := (statusValid s).toNat_le
  have h5 := s.sync.lastMatch.toNat_le
  have h6 := s.fault.toNat_le
  have h8 := errCode_code_lt s.lastErr
  have hbit : false.toNat = 0 := rfl
  have hfield : (0#20).toNat = 0 := rfl
  refine ⟨getLsbD_eq_of_toNat _ _ _ ?_, getLsbD_eq_of_toNat _ _ _ ?_, extract_eq_of_toNat _ _ _ ?_,
    getLsbD_eq_of_toNat _ _ _ ?_, getLsbD_eq_of_toNat _ _ _ ?_, getLsbD_eq_of_toNat _ _ _ ?_,
    getLsbD_eq_of_toNat _ _ _ ?_, extract_eq_of_toNat _ _ _ ?_, extract_eq_of_toNat _ _ _ ?_⟩
  all_goals omega

/-- Settles O17: the value READ STATUS returns is `statusWord` of the state before the READ, field by field. -/
theorem statusWordFields : Obligations.StatusWordFields := by
  intro s
  obtain ⟨hconf, htrack, hdir, hvalid, hmatch, hfault, h7, herr, hhigh⟩ := statusWord_fields s
  refine ⟨_, exec_read_status s, ?_⟩
  simp only [succeed_res0]
  exact ⟨hconf, htrack, hdir, by rw [hvalid, statusValid_iff], hmatch, hfault, h7, herr, hhigh⟩

/-! ## The generator stays in range (R150 to R152) -/

theorem parityBelow_zero (n : Nat) : parityBelow 0#32 n = false :=
  parityBelow_eq 0#32 0 n (Nat.zero_le n) (fun _ _ => BitVec.getLsbD_zero)

/-- The state 1 feeds back a 1, because TAPS[0] = 1: Advance of it is not 0. -/
theorem feedback_one (p : ConfigRegs) (hp : p.FormatLegal) : feedback p 1#32 = true := by
  obtain ⟨hw, _⟩ := formatLegal_width p hp
  have hlt : (1#32).toNat < 2 ^ p.width.toNat := Nat.one_lt_two_pow (by omega)
  rw [feedback_split p 1#32 hp hlt, show 1#32 >>> 1 = 0#32 from rfl, BitVec.zero_and, parityBelow_zero]
  rfl

/-- The state with bit W-1 alone reverts with a 1 at bit 0: Revert of it is not 0. -/
theorem revert_feedback_top (p : ConfigRegs) (st : Word) (hp : p.FormatLegal) (h : st.toNat = 2 ^ (p.width.toNat - 1)) :
    parity (st &&& revertTaps p) = true := by
  have hw := formatLegal_width p hp
  have hlt : st.toNat < 2 ^ p.width.toNat := by rw [h]; exact Nat.pow_lt_pow_right (by omega) (by omega)
  have hbit : ∀ i, st.getLsbD i = decide (p.width.toNat - 1 = i) := fun i => by
    rw [BitVec.getLsbD, h, Nat.testBit_two_pow]
  have hlow : parityBelow (st &&& (p.taps >>> 1)) (p.width.toNat - 1) = parityBelow 0#32 (p.width.toNat - 1) :=
    parityBelow_congr _ _ _ fun i hi => by simp [hbit, show p.width.toNat - 1 ≠ i by omega]
  rw [revert_feedback_split p st hp hlt, hlow, parityBelow_zero, hbit, decide_eq_true rfl]
  rfl

/-- Advance succeeds on a state in [1, 2^W - 1] and stays there. -/
theorem advance_inRange (p : ConfigRegs) (st : Word) (hp : p.FormatLegal) (hr : p.InRange st) :
    ∃ g, advance p st = .ok g ∧ p.InRange g.next := by
  refine ⟨_, advance_ok p st (inRange_ne_zero p st hr), ?_⟩
  obtain ⟨hw1, hw2⟩ := formatLegal_width p hp
  have hpow := two_pow_width _ hw1
  have hpos : 0 < 2 ^ (p.width.toNat - 1) := Nat.two_pow_pos _
  rw [ConfigRegs.InRange, shiftRight_insert_toNat st _ _ hw1 hw2 hr.2]
  cases hf : feedback p st with
  | true => simp only [if_true]; omega
  | false =>
    have hne : st.toNat ≠ 1 := fun h1 => by
      rw [BitVec.eq_of_toNat_eq (y := 1#32) h1, feedback_one p hp] at hf
      cases hf
    simp only [Bool.false_eq_true, if_false]; omega

/-- Revert succeeds on a state in [1, 2^W - 1] and stays there. -/
theorem revert_inRange (p : ConfigRegs) (st : Word) (hp : p.FormatLegal) (hr : p.InRange st) :
    ∃ g, revert p st = .ok g ∧ p.InRange g.next := by
  refine ⟨_, revert_ok p st (inRange_ne_zero p st hr), ?_⟩
  obtain ⟨hw1, hw2⟩ := formatLegal_width p hp
  have hpow := two_pow_width _ hw1
  have hmod : 2 * st.toNat % 2 ^ p.width.toNat = 2 * (st.toNat % 2 ^ (p.width.toNat - 1)) := by
    rw [hpow, Nat.mul_mod_mul_left]
  have hlt : st.toNat % 2 ^ (p.width.toNat - 1) < 2 ^ (p.width.toNat - 1) := Nat.mod_lt _ (Nat.two_pow_pos _)
  rw [ConfigRegs.InRange, shiftLeft_insert_toNat st _ _ hw1 hw2, hmod]
  cases hg : parity (st &&& revertTaps p) with
  | true => simp only [if_true]; omega
  | false =>
    have hne : st.toNat % 2 ^ (p.width.toNat - 1) ≠ 0 := fun h0 => by
      obtain ⟨hpos, hlt2⟩ := hr
      have htop : st.toNat = 2 ^ (p.width.toNat - 1) :=
        Nat.eq_of_dvd_of_lt_two_mul (by omega) (Nat.dvd_of_mod_eq_zero h0) (by omega)
      rw [revert_feedback_top p st hp htop] at hg
      cases hg
    simp only [Bool.false_eq_true, if_false]; omega

theorem revertTimes_inRange (p : ConfigRegs) (n : Nat) (st : Word) (hp : p.FormatLegal) (hr : p.InRange st) :
    ∃ st', revertTimes p n st = .ok st' ∧ p.InRange st' := by
  induction n generalizing st with
  | zero => exact ⟨st, rfl, hr⟩
  | succ n ih =>
    obtain ⟨g, hg, hgr⟩ := revert_inRange p st hp hr
    rw [revertTimes, hg]
    exact ih g.next hgr

theorem mapperStep_inRange (p : ConfigRegs) (st : Word) (b : Bool) (d : Direction) (hd : d ≠ .stopped) (hp : p.FormatLegal)
    (hr : p.InRange st) : ∃ st' isMatch, mapperStep p st b d = .ok (st', isMatch) ∧ p.InRange st' := by
  cases d with
  | stopped => exact absurd rfl hd
  | forward =>
    obtain ⟨g, hg, hgr⟩ := advance_inRange p st hp hr
    exact ⟨_, _, mapperStep_forward p st b g hg, hgr⟩
  | backward =>
    obtain ⟨g, hg, hgr⟩ := revert_inRange p st hp hr
    exact ⟨_, _, mapperStep_backward p st b g hg, hgr⟩

/-! ## The pitch filter stays nonnegative (R130, R210 to R212) -/

/-- With a legal factor the filter's state lies between its old state and its input, so neither sign nor width is lost. -/
theorem filterStep_nonneg (f : FilterState) (x : Int) (a : Nat) (hf : 0 ≤ f.s.toInt) (hx0 : 0 ≤ x) (hx1 : x < 2 ^ 31)
    (ha1 : 1 ≤ a) (ha2 : a ≤ 65536) : 0 ≤ (filterStep f x a).s.toInt := by
  have hfit := word_toInt_fits f.s
  obtain ⟨hup, hdown, _⟩ := truncDiv_between (65536 - (a : Int)) (f.s.toInt - x) (by omega) (by omega)
  unfold filterStep
  split
  · rw [toInt_ofInt_of_fits] <;> omega
  · rw [toInt_ofInt_of_fits] <;> omega

theorem channelStep_pitch_nonneg (p : ConfigRegs) (f : Nat) (c : Channel) (s : Sample) (hp : p.ParamsLegal)
    (hc : 0 ≤ c.pitch.s.toInt) : 0 ≤ (channelStep p f c s).ch.pitch.s.toInt := by
  obtain ⟨_, ⟨ha1, ha2⟩, _⟩ := hp
  rcases channelStep_cases p f c s with ⟨_, _, h⟩ | ⟨_, _, h⟩ | ⟨_, h⟩
  · have hin : pitchInput p f (preCross p c s).cnt.toNat ≤ 2 ^ 31 - 1 := Nat.min_le_right _ _
    rw [h]
    exact filterStep_nonneg c.pitch _ _ hc (by omega) (by omega) ha1 ha2
  · rw [h]; exact hc
  · rw [h, noCross_ch]
    dsimp only
    split
    · exact filterStep_nonneg c.pitch 0 _ hc (by omega) (by omega) ha1 ha2
    · exact hc

/-! ## The mapper and its window stay in range (R244) -/

/-- The mapper's share of R47: S in [1, 2^W - 1], R < 2^W, RCNT <= W. -/
def Mapper.InRange (p : ConfigRegs) (m : Mapper) : Prop :=
  p.InRange m.s ∧ m.r.toNat < 2 ^ p.width.toNat ∧ m.rcnt.toNat ≤ p.width.toNat

theorem sessionsInRange_iff (s : State) :
    s.SessionsInRange ↔ s.map.InRange s.act ∧ s.act.InRange s.encSE ∧ s.act.InRange s.tmS := by
  simp only [State.SessionsInRange, Mapper.InRange]
  tauto

/-- A mapper just loaded with a position in range: its window is empty. -/
theorem loadedMapper_inRange (p : ConfigRegs) (pos : Word) (h : p.InRange pos) :
    Mapper.InRange p ⟨pos, 0#32, 0#6, .stopped⟩ :=
  ⟨h, Nat.two_pow_pos _, Nat.zero_le _⟩

theorem shiftIn_lt (p : ConfigRegs) (d : Direction) (r : Word) (b : Bool) (hp : p.FormatLegal)
    (hr : r.toNat < 2 ^ p.width.toNat) : (shiftIn p d r b).toNat < 2 ^ p.width.toNat := by
  obtain ⟨hw1, hw2⟩ := formatLegal_width p hp
  have hpow := two_pow_width _ hw1
  have hone : (if b then 1 else 0) ≤ 1 := by cases b <;> decide
  cases d with
  | stopped => exact hr
  | forward =>
    rw [shiftIn, shiftInForward, shiftRight_insert_toNat r _ b hw1 hw2 hr]
    have := Nat.mul_le_mul_right (2 ^ (p.width.toNat - 1)) hone
    omega
  | backward =>
    rw [shiftIn, shiftInBackward, shiftLeft_insert_toNat r _ b hw1 hw2, hpow, Nat.mul_mod_mul_left]
    have := Nat.mod_lt r.toNat (Nat.two_pow_pos (p.width.toNat - 1))
    omega

theorem windowState_inRange (p : ConfigRegs) (d : Direction) (r : Word) (hp : p.FormatLegal) (hr : p.InRange r) :
    ∃ st, windowState p d r = .ok st ∧ p.InRange st := by
  cases d with
  | stopped => exact ⟨r, rfl, hr⟩
  | forward => exact ⟨r, rfl, hr⟩
  | backward => exact revertTimes_inRange p _ r hp hr

/-- Feeding a bit never fails from a mapper in range: S is stepped, or reloaded from a window that is not zero. -/
theorem feedBit_inRange (p : ConfigRegs) (m : Mapper) (tracking : Bool) (d : Direction) (b : Bool) (hd : d ≠ .stopped)
    (hp : p.FormatLegal) (hm : m.InRange p) : ∃ f, feedBit p m tracking d b = .ok f ∧ f.map.InRange p := by
  obtain ⟨hs, hr, _⟩ := hm
  obtain ⟨s2, isMatch, hstep, hs2⟩ := mapperStep_inRange p m.s b d hd hp hs
  have hwin := shiftIn_lt p d m.r b hp hr
  have hcount : (BitVec.ofNat 6 (nextCount p m d)).toNat ≤ p.width.toNat :=
    le_trans (Nat.mod_le _ _) (Nat.min_le_right _ _)
  cases hl : reloads isMatch tracking (decide (nextCount p m d = p.width.toNat)) (shiftIn p d m.r b) with
  | false => exact ⟨_, feedBit_step p m tracking d b s2 isMatch hstep hl, hs2, hwin, hcount⟩
  | true =>
    obtain ⟨_, _, _, hne⟩ := (reloads_iff _ _ _ _).1 hl
    obtain ⟨s3, hload, hs3⟩ := windowState_inRange p d _ hp ⟨(ne_zero_iff_pos _).1 hne, hwin⟩
    exact ⟨_, feedBit_reload p m tracking d b s2 s3 isMatch hstep hl hload, hs3, hwin, hcount⟩

theorem mapperFeed_inRange (p : ConfigRegs) (m : Mapper) (tracking : Bool) (d : Direction) (a : ChannelOut)
    (hp : p.FormatLegal) (hm : m.InRange p) : ∃ f, mapperFeed p m tracking d a = .ok f ∧ f.map.InRange p := by
  rcases mapperFeed_cases p m tracking d a with ⟨_, h⟩ | ⟨_, _, h⟩ | ⟨_, hd, h⟩
  · exact ⟨_, h, hm⟩
  · exact ⟨_, h, hm.1, hm.2.1, Nat.zero_le _⟩
  · rw [h]; exact feedBit_inRange p m tracking d a.bit hd hp hm

/-! ## The encoder stays in range (R280) -/

/-- The encoder's move never fails from a state in range: SE is kept, advanced or reverted. -/
theorem encMove_inRange (s : State) (hp : s.act.FormatLegal) (hr : s.act.InRange s.encSE) :
    ∃ m, encMove s = .ok m ∧ s.act.InRange m.se := by
  unfold encMove
  cases s.encDir with
  | stopped => exact ⟨_, rfl, hr⟩
  | forward =>
    obtain ⟨g, hg, hgr⟩ := advance_inRange s.act s.encSE hp hr
    simp only [encForward, hg]
    split
    · exact ⟨_, rfl, hgr⟩
    · exact ⟨_, rfl, hr⟩
  | backward =>
    obtain ⟨g, hg, hgr⟩ := revert_inRange s.act s.encSE hp hr
    simp only [encBackward, hg]
    split
    · exact ⟨_, rfl, hgr⟩
    · exact ⟨_, rfl, hr⟩

/-! ## Which writes keep the invariants -/

theorem ready_legal (s : State) (h : Ready s) : s.act.FormatLegal ∧ s.act.ParamsLegal := (h.2.1 h.1).1

theorem ready_sessions (s : State) (h : Ready s) :
    s.map.InRange s.act ∧ s.act.InRange s.encSE ∧ s.act.InRange s.tmS :=
  (sessionsInRange_iff s).1 (h.2.1 h.1).2

/-- A state that differs from a ready one in its sessions, channels and results only is judged by these. -/
theorem inv_of_ready (s u : State) (h : Ready s)
    (hframe : u.fault = s.fault ∧ u.act = s.act ∧ u.tfAlpha = s.tfAlpha)
    (hmap : u.map.InRange s.act) (hse : s.act.InRange u.encSE) (htm : s.act.InRange u.tmS)
    (h0 : 0 ≤ u.ch0.pitch.s.toInt) (h1 : 0 ≤ u.ch1.pitch.s.toInt) : u.Inv := by
  obtain ⟨hfault, hact, halpha⟩ := hframe
  obtain ⟨hconf, hinv, hf, _, _, ha⟩ := h
  rw [State.Inv, sessionsInRange_iff, hact, hfault, halpha]
  exact ⟨fun _ => ⟨(hinv hconf).1, hmap, hse, htm⟩, hf, h0, h1, ha⟩

/-- Only LFSR_ZERO sets FAULT (R342, R344). -/
theorem raiseError_inv (e : ErrCode) (s : State) (he : e ≠ .lfsrZero) (h : s.Inv) : (raiseError e s).Inv := by
  obtain ⟨hconf, hfault, hrest⟩ := h
  exact ⟨hconf, by simp [he, hfault], hrest⟩

/-- A failing CONFIGURE clears CONFIGURED, which the session ranges hang on (R312). -/
theorem clearConfigured_inv (s : State) (h : s.Inv) : State.Inv { s with configured := false } :=
  ⟨nofun, h.2⟩

theorem channelReset_pitch_nonneg : 0 ≤ Channel.reset.pitch.s.toInt := by decide

theorem hardwareReset_inv (s : State) : (hardwareReset s).Inv := by
  have halpha : 1 ≤ State.reset.tfAlpha.toNat ∧ State.reset.tfAlpha.toNat ≤ 65536 := by decide
  exact ⟨nofun, rfl, channelReset_pitch_nonneg, channelReset_pitch_nonneg, halpha⟩

/-- A successful CONFIGURE starts every session at SEED, which its checks put in [1, 2^W - 1] (R312). -/
theorem configureDone_inv (s : State) (h : s.Inv) (hl : s.staged.Legal) : (configureDone s).Inv := by
  obtain ⟨_, _, _, _, halpha⟩ := h
  obtain ⟨_, _, _, _, _, hseed, _⟩ := hl.1
  have hsessions : (configureDone s).SessionsInRange :=
    (sessionsInRange_iff _).2 ⟨loadedMapper_inRange _ _ hseed, hseed, hseed⟩
  exact ⟨fun _ => ⟨hl, hsessions⟩, rfl, channelReset_pitch_nonneg, channelReset_pitch_nonneg, halpha⟩

/-! ## Every command's answer -/

/-- What the rule of a command may compute for its step to keep the invariants: a state that meets them, or an error that
leaves FAULT alone. -/
def AnswerKeepsInv : Except ErrCode State → Prop
  | .ok u => u.Inv
  | .error e => e ≠ .lfsrZero

/-- A gated command runs its body from ready states only. -/
theorem gated_keepsInv (s : State) (body : Except ErrCode State) (h : s.Inv) (hb : Ready s → AnswerKeepsInv body) :
    AnswerKeepsInv (gated s body) := by
  cases hc : s.configured with
  | false => rw [gated_not_configured s body hc]; exact nofun
  | true => rw [gated_open s body hc h.2.1]; exact hb ⟨hc, h⟩

theorem ite_invalidParameter_keepsInv (c : Bool) (u : State) (h : c = true → u.Inv) :
    AnswerKeepsInv (if c then .ok u else .error .invalidParameter) := by
  cases c with
  | true => exact h rfl
  | false => exact nofun

theorem writeReg_keepsInv (s : State) (r : Reg) (v : Word) (h : s.Inv) : AnswerKeepsInv (writeReg s r v) := by
  cases r with
  | staged | encSpeed | encDir | encAmp => exact h
  | _ => exact nofun

/-! ### The bodies of the gated commands, from a ready state -/

section
variable (s : State) (h : Ready s)
include h

theorem advance_tmS_inRange : ∃ g, advance s.act s.tmS = .ok g ∧ s.act.InRange g.next :=
  advance_inRange s.act s.tmS (ready_legal s h).1 (ready_sessions s h).2.2

theorem revert_tmS_inRange : ∃ g, revert s.act s.tmS = .ok g ∧ s.act.InRange g.next :=
  revert_inRange s.act s.tmS (ready_legal s h).1 (ready_sessions s h).2.2

theorem setTmS_inv (v r0 r1 r2 : Word) (hv : s.act.InRange v) :
    State.Inv { s with tmS := v, res0 := r0, res1 := r1, res2 := r2 } := by
  obtain ⟨hmap, hse, _⟩ := ready_sessions s h
  obtain ⟨_, _, h0, h1, _⟩ := h.2
  exact inv_of_ready s _ h ⟨rfl, rfl, rfl⟩ hmap hse hv h0 h1

theorem setEncoder_inv (v ph r0 r1 r2 : Word) (hv : s.act.InRange v) :
    State.Inv { s with encSE := v, encPH := ph, res0 := r0, res1 := r1, res2 := r2 } := by
  obtain ⟨hmap, _, htm⟩ := ready_sessions s h
  obtain ⟨_, _, h0, h1, _⟩ := h.2
  exact inv_of_ready s _ h ⟨rfl, rfl, rfl⟩ hmap hv htm h0 h1

theorem mapLoaded_inv (pos : Word) (hv : s.act.InRange pos) : (mapLoaded s pos).Inv := by
  obtain ⟨_, hse, htm⟩ := ready_sessions s h
  obtain ⟨_, _, h0, h1, _⟩ := h.2
  exact inv_of_ready s _ h ⟨rfl, rfl, rfl⟩ (loadedMapper_inRange s.act pos hv) hse htm h0 h1

theorem frameDone_inv (a b : Sample) (f : FeedOut) (hf : f.map.InRange s.act) : (frameDone s a b f).Inv := by
  obtain ⟨_, hse, htm⟩ := ready_sessions s h
  obtain ⟨_, _, h0, h1, _⟩ := h.2
  obtain ⟨_, hp⟩ := ready_legal s h
  exact inv_of_ready s _ h ⟨rfl, rfl, rfl⟩ hf hse htm (channelStep_pitch_nonneg s.act _ s.ch0 a hp h0)
    (channelStep_pitch_nonneg s.act _ s.ch1 b hp h1)

theorem storeStep_keepsInv (r : Except ErrCode GenStep) (hr : ∃ g, r = .ok g ∧ s.act.InRange g.next) :
    AnswerKeepsInv (storeStep s r) := by
  obtain ⟨g, rfl, hg⟩ := hr
  exact setTmS_inv s h _ _ _ _ hg

theorem peekStep_keepsInv (r : Except ErrCode GenStep) (hr : ∃ g, r = .ok g ∧ s.act.InRange g.next) :
    AnswerKeepsInv (peekStep s r) := by
  obtain ⟨g, rfl, _⟩ := hr
  exact h.2

theorem tmBitBody_keepsInv (b : Bool) (d : Direction) (hd : d ≠ .stopped) : AnswerKeepsInv (tmBitBody b d s) := by
  obtain ⟨_, _, htm⟩ := ready_sessions s h
  obtain ⟨st, isMatch, hstep, hst⟩ := mapperStep_inRange s.act s.tmS b d hd (ready_legal s h).1 htm
  rw [tmBitBody, hstep]
  exact setTmS_inv s h _ _ _ _ hst

theorem encodeFrame_keepsInv : AnswerKeepsInv (encodeFrame s) := by
  obtain ⟨_, hse, _⟩ := ready_sessions s h
  obtain ⟨m, hmove, hm⟩ := encMove_inRange s (ready_legal s h).1 hse
  rw [encodeFrame, hmove]
  exact setEncoder_inv s h _ _ _ _ _ hm

theorem decodeFrame_keepsInv (a b : Sample) : AnswerKeepsInv (decodeFrame s a b) := by
  obtain ⟨hmap, _, _⟩ := ready_sessions s h
  obtain ⟨f, hfeed, hf⟩ :=
    mapperFeed_inRange s.act s.map s.sync.tracking (frameDir s a b) (stepA s a) (ready_legal s h).1 hmap
  rw [decodeFrame, frameFeed, hfeed]
  exact frameDone_inv s h a b f hf

end

/-- CONFIGURE's computation: its checks are the legality the invariants ask of the active set (R312). -/
theorem configureBody_keepsInv (s : State) (h : s.Inv) : AnswerKeepsInv (commandBody .configure s) := by
  simp only [commandBody]
  cases hc : configError s.staged with
  | none => exact configureDone_inv s h ((configError_iff s.staged).1.1 hc)
  | some e =>
    rcases configError_code _ e hc with rfl | rfl <;> exact nofun

/-- From a state that meets the invariants, no command computes a state that breaks them or reports LFSR_ZERO. -/
theorem commandBody_keepsInv (i : Instr) (s : State) (h : s.Inv) : AnswerKeepsInv (commandBody i s) := by
  cases i with
  | nop | tfUpdate | tfPreview => exact h
  | cfgWrite index value =>
    simp only [commandBody]
    cases Reg.ofIndex index with
    | none => exact nofun
    | some r => exact writeReg_keepsInv s r value h
  | read index =>
    simp only [commandBody]
    cases Reg.ofIndex index with
    | none => exact nofun
    | some r => exact h
  | configure => exact configureBody_keepsInv s h
  | decSample a b => exact gated_keepsInv s _ h fun hr => decodeFrame_keepsInv s hr a b
  | mapLoad pos =>
    exact gated_keepsInv s _ h fun hr => ite_invalidParameter_keepsInv _ _ fun hv =>
      mapLoaded_inv s hr pos ((positionLegal_iff _ _).1 hv)
  | encSample => exact gated_keepsInv s _ h fun hr => encodeFrame_keepsInv s hr
  | encLoad pos =>
    exact gated_keepsInv s _ h fun hr => ite_invalidParameter_keepsInv _ _ fun hv =>
      setEncoder_inv s hr pos _ _ _ _ ((positionLegal_iff _ _).1 hv)
  | tmLoad v =>
    exact gated_keepsInv s _ h fun hr => ite_invalidParameter_keepsInv _ _ fun hv =>
      setTmS_inv s hr v _ _ _ ((positionLegal_iff _ _).1 hv)
  | tmAdvance => exact gated_keepsInv s _ h fun hr => storeStep_keepsInv s hr _ (advance_tmS_inRange s hr)
  | tmRevert => exact gated_keepsInv s _ h fun hr => storeStep_keepsInv s hr _ (revert_tmS_inRange s hr)
  | tmPeekNext => exact gated_keepsInv s _ h fun hr => peekStep_keepsInv s hr _ (advance_tmS_inRange s hr)
  | tmPeekPrev => exact gated_keepsInv s _ h fun hr => peekStep_keepsInv s hr _ (revert_tmS_inRange s hr)
  | tmBit b d =>
    cases d with
    | stopped => exact nofun
    | forward => exact gated_keepsInv s _ h fun hr => tmBitBody_keepsInv s hr b .forward nofun
    | backward => exact gated_keepsInv s _ h fun hr => tmBitBody_keepsInv s hr b .backward nofun
  | tfConfig alpha =>
    refine ite_invalidParameter_keepsInv _ _ fun ha => ?_
    simp only [factorLegal, Bool.and_eq_true, decide_eq_true_eq] at ha
    obtain ⟨hsess, hfault, h0, h1, _⟩ := h
    exact ⟨hsess, hfault, h0, h1, ha⟩

/-! ## Every step -/

theorem exec_keepsInv (i : Instr) (s t : State) (h : s.Inv) (ht : exec i s = .next t) : t.Inv := by
  have hbody := commandBody_keepsInv i s h
  rcases exec_cases i s t ht with ⟨u, hu, rfl⟩ | ⟨_, e, he, rfl⟩ | ⟨rfl, e, he, rfl⟩
  · rw [hu] at hbody
    exact hbody
  · rw [he] at hbody
    exact raiseError_inv e s hbody h
  · simp only [commandBody, he] at hbody
    exact raiseError_inv e _ hbody (clearConfigured_inv s h)

/-- Settles O57: each of the four things a step can be (`step_cases`) leaves a state that meets the invariants. -/
theorem invariantsKeptByEveryStep : Obligations.InvariantsKeptByEveryStep := by
  intro s t h ht
  rcases step_cases s t ht with ⟨_, rfl⟩ | ⟨rest, _, rfl⟩ | ⟨w, rest, i, _, _, hexec⟩ | ⟨w, rest, e, _, _, rfl⟩
  · exact h
  · exact hardwareReset_inv _
  · exact exec_keepsInv i { s with inputs := rest } t h hexec
  · exact raiseError_inv .illegalCommand { s with inputs := rest } nofun h

end Sys2Proof.Machine

/-! PROOFS of family 20_memory: the byte order of words and the packing of frames (O60). The bytes of a word are the laws
`CmdWord.getElem_toBytes` and `Word.getElem_toBytes`; the frames rest on `frameData_toNat`, read once in the word that
DEC_SAMPLE encodes to and once in the RES0 that ENC_SAMPLE leaves. -/

namespace Sys2Proof.Machine

open Sys2Proof.Spec

/-! ## The frame in DEC_SAMPLE's word (R85, R107) -/

theorem encode_decSample_toNat (a b : Sample) :
    (encode (.decSample a b)).toNat = 4 + 2 ^ 32 * a.toNat + 2 ^ 48 * b.toNat := by
  have hmake : encode (.decSample a b) = CmdWord.make 0x04#8 0#8 (frameData a b) := rfl
  rw [hmake, make_toNat, frameData_toNat, BitVec.toNat_ofNat, BitVec.toNat_zero]
  omega

/-! ## The frame ENC_SAMPLE emits (R280, R282) -/

theorem tri_eq_triangle (ph : Word) (amp : Nat) : tri ph amp = triangle ph.toNat amp := by
  rw [tri, floorDiv_pos _ _ (Nat.two_pow_pos 30)]
  rfl

theorem halfWord_lt (y : Int) : halfWord y < 65536 := by
  rw [halfWord]; omega

theorem ofInt_toNat_eq_halfWord (y : Int) : (BitVec.ofInt 16 y).toNat = halfWord y := BitVec.toNat_ofInt y

/-- Channel B's phase, a quarter cycle behind: PH - 2^30 is PH + 3 * 2^30 modulo 2^32. -/
theorem quarterBehind_toNat (ph : Word) : (ph - 0x40000000#32).toNat = (ph.toNat + 3 * 2 ^ 30) % 2 ^ 32 := by
  rw [BitVec.toNat_sub, BitVec.toNat_ofNat]; omega

theorem encFrame_toNat (ph : Word) (amp : Nat) :
    (encFrame ph amp).toNat =
      halfWord (triangle ph.toNat amp) + 65536 * halfWord (triangle ((ph.toNat + 3 * 2 ^ 30) % 2 ^ 32) amp) := by
  rw [encFrame, frameData_toNat, ofInt_toNat_eq_halfWord, ofInt_toNat_eq_halfWord, tri_eq_triangle, tri_eq_triangle,
    quarterBehind_toNat]

/-- From a ready state ENC_SAMPLE completes: its gate is open and the encoder's move does not fail. -/
theorem exec_encSample_ready (s : State) (h : Ready s) :
    ∃ m, encMove s = .ok m ∧ exec .encSample s = .next (succeed (encDone s m)) := by
  obtain ⟨_, hse, _⟩ := ready_sessions s h
  obtain ⟨m, hmove, _⟩ := encMove_inRange s (ready_legal s h).1 hse
  obtain ⟨hconf, _, hfault, _⟩ := h
  refine ⟨m, hmove, ?_⟩
  rw [exec_eq_commit .encSample s nofun, commandBody, gated_open s _ hconf hfault, encodeFrame, hmove, commit_ok]

/-- Settles O60: the bytes of a word by their laws, and each frame as the sum of its two halves at their weights. -/
theorem wordsValuesAndFramesOnByteLink : Obligations.WordsValuesAndFramesOnByteLink := by
  refine ⟨fun w => ⟨w.length_toBytes, w.getElem_toBytes⟩, fun v => ⟨v.length_toBytes, v.getElem_toBytes⟩, ?_, ?_⟩
  · intro a b
    have hword := encode_decSample_toNat a b
    have ha := a.isLt
    omega
  · intro s h
    obtain ⟨m, _, hexec⟩ := exec_encSample_ready s h
    refine ⟨_, hexec, ?_⟩
    rw [succeed_res0, encDone_res0]
    have hframe := encFrame_toNat s.encPH s.encAmp.toNat
    have hlow := halfWord_lt (triangle s.encPH.toNat s.encAmp.toNat)
    omega

end Sys2Proof.Machine

/-! PROOFS of family 30_encoding: the legal words (O3), the rows of the opcode table (O4) and the worked encodings (O6).
All three rest on `decode_ok_iff`: a word decodes to a command exactly when the command is well formed and encodes to it,
that is, when the word's fields are the command's. -/

namespace Sys2Proof.Machine

open Sys2Proof.Spec

/-! ## What a word decodes to (R100 to R104) -/

theorem make_eq_iff (opc arg : BitVec 8) (data : Word) (w : CmdWord) :
    CmdWord.make opc arg data = w ↔ w.rsv = 0#16 ∧ w.opc = opc ∧ w.arg = arg ∧ w.data = data := by
  constructor
  · rintro rfl
    exact ⟨make_rsv .., make_opc .., make_arg .., make_data ..⟩
  · rintro ⟨hrsv, rfl, rfl, rfl⟩
    exact make_of_fields w hrsv

/-- A command's word is the one with RSV = 0 and the command's three fields. -/
theorem encode_eq_iff (i : Instr) (w : CmdWord) :
    encode i = w ↔ w.rsv = 0#16 ∧ w.opc = i.opcode ∧ w.arg = i.argField ∧ w.data = i.dataField :=
  make_eq_iff ..

theorem decode_of_encode (i : Instr) (w : CmdWord) (hwf : i.wellFormed = true) (henc : encode i = w) :
    decode w = .ok i := by
  obtain ⟨hrsv, hopc, harg, hdata⟩ := (encode_eq_iff i w).1 henc
  rw [decode, if_neg (not_not.2 hrsv), hopc]
  cases i with
  | cfgWrite => rw [harg, hdata]; rfl
  | read => exact (decodeArgOnly_ok ..).2 ⟨hdata, by rw [harg]; rfl⟩
  | nop | configure | encSample | tmAdvance | tmRevert | tmPeekNext | tmPeekPrev =>
    exact (decodeNoOperand_ok ..).2 ⟨harg, hdata, rfl⟩
  | decSample a b =>
    exact (decodeDataOnly_ok ..).2 ⟨harg, by rw [hdata, Instr.dataField, frameData_low, frameData_high]⟩
  | mapLoad | encLoad | tmLoad | tfConfig | tfUpdate | tfPreview =>
    exact (decodeDataOnly_ok ..).2 ⟨harg, by rw [hdata]; rfl⟩
  | tmBit bit dir => exact (decodeTmBit_ok ..).2 ⟨hdata, bit, dir, rfl, hwf, harg⟩

theorem encode_of_decode (i : Instr) (w : CmdWord) (h : decode w = .ok i) : i.wellFormed = true ∧ encode i = w := by
  rw [encode_eq_iff]
  have hrsv : w.rsv = 0#16 := by
    by_contra hne
    rw [decode, if_pos hne] at h
    cases h
  rw [decode, if_neg (not_not.2 hrsv)] at h
  split at h
  -- neither ARG nor DATA: NOP, CONFIGURE, ENC_SAMPLE, the TM_ steps and peeks
  case h_1 hopc | h_4 hopc | h_7 hopc | h_10 hopc | h_11 hopc | h_12 hopc | h_13 hopc =>
    obtain ⟨harg, hdata, rfl⟩ := (decodeNoOperand_ok ..).1 h
    exact ⟨rfl, hrsv, hopc, harg, hdata⟩
  -- CFG_WRITE
  case h_2 hopc =>
    cases h
    exact ⟨rfl, hrsv, hopc, rfl, rfl⟩
  -- READ
  case h_3 hopc =>
    obtain ⟨hdata, rfl⟩ := (decodeArgOnly_ok ..).1 h
    exact ⟨rfl, hrsv, hopc, rfl, hdata⟩
  -- DEC_SAMPLE
  case h_5 hopc =>
    obtain ⟨harg, rfl⟩ := (decodeDataOnly_ok ..).1 h
    exact ⟨rfl, hrsv, hopc, harg, (frameData_of_halves _).symm⟩
  -- DATA only: the loads and the test filter
  case h_6 hopc | h_8 hopc | h_9 hopc | h_15 hopc | h_16 hopc | h_17 hopc =>
    obtain ⟨harg, rfl⟩ := (decodeDataOnly_ok ..).1 h
    exact ⟨rfl, hrsv, hopc, harg, rfl⟩
  -- TM_BIT
  case h_14 hopc =>
    obtain ⟨hdata, bit, dir, rfl, hsteps, harg⟩ := (decodeTmBit_ok ..).1 h
    exact ⟨hsteps, hrsv, hopc, harg, hdata⟩
  -- a reserved opcode
  case h_18 => cases h

theorem decode_ok_iff (w : CmdWord) (i : Instr) : decode w = .ok i ↔ i.wellFormed = true ∧ encode i = w :=
  ⟨encode_of_decode i w, fun ⟨hwf, henc⟩ => decode_of_encode i w hwf henc⟩

/-! ## The worked encodings (R109) -/

/-- Settles O6: the five words are the encodings of their commands by computation, and decode by `decode_of_encode`. -/
theorem workedEncodings : Obligations.WorkedEncodings :=
  ⟨rfl, decode_of_encode _ _ rfl rfl, rfl, decode_of_encode _ _ rfl rfl, rfl, decode_of_encode _ _ rfl rfl,
    rfl, decode_of_encode _ _ rfl rfl, rfl, decode_of_encode _ _ rfl rfl⟩

/-! ## The legal words (R103) -/

/-- R103's conditions on the three fields of a word whose RSV is 0. -/
def LegalFields (opc arg : BitVec 8) (data : Word) : Prop :=
  opc.toNat ≤ 0x10 ∧ (¬ usesArg opc.toNat → arg = 0#8) ∧ (¬ usesData opc.toNat → data = 0#32) ∧
    (opc.toNat = 0xD → arg.toNat / 8 = 0 ∧ (arg.toNat / 2 % 4 = 1 ∨ arg.toNat / 2 % 4 = 2))

theorem legalWord_iff_fields (w : CmdWord) : LegalWord w ↔ w.rsv = 0#16 ∧ LegalFields w.opc w.arg w.data := by
  rw [LegalWord, LegalFields, opcOf, argOf, rsvOf, dataOf, ← opc_toNat, ← arg_toNat, ← rsv_toNat, ← data_toNat]
  simp only [← BitVec.toNat_inj, BitVec.toNat_zero]
  exact and_left_comm

/-- TM_BIT's ARG: nothing at or above bit 3, and a direction code that names a step (R101). -/
theorem tmBit_argField_iff (arg : BitVec 8) :
    (∃ bit dir, dir.steps = true ∧ (Instr.tmBit bit dir).argField = arg) ↔
      arg.toNat / 8 = 0 ∧ (arg.toNat / 2 % 4 = 1 ∨ arg.toNat / 2 % 4 = 2) := by
  constructor
  · rintro ⟨bit, dir, hsteps, rfl⟩
    revert hsteps
    cases bit <;> cases dir <;> decide
  · rintro ⟨hhigh, hcode⟩
    have hzero : arg.extractLsb' 3 5 = 0#5 := by
      apply BitVec.eq_of_toNat_eq
      rw [extract_toNat, BitVec.toNat_zero]; omega
    have hfield (dir : Direction) (hd : arg.toNat / 2 % 4 = dir.code.toNat) :
        (Instr.tmBit (arg.getLsbD 0) dir).argField = arg := by
      have hdir : arg.extractLsb' 1 2 = dir.code := BitVec.eq_of_toNat_eq (by rw [extract_toNat]; exact hd)
      rw [Instr.argField, ← hdir, ← hzero, tmBit_arg]
    rcases hcode with h1 | h2
    · exact ⟨_, .forward, rfl, hfield .forward h1⟩
    · exact ⟨_, .backward, rfl, hfield .backward h2⟩

theorem legalFields_of_wellFormed (i : Instr) (h : i.wellFormed = true) :
    LegalFields i.opcode i.argField i.dataField := by
  cases i with
  | tmBit bit dir =>
    exact ⟨(by decide : 0xD ≤ 0x10), fun hno => absurd (.inr (.inr rfl)) hno, fun _ => rfl,
      fun _ => (tmBit_argField_iff _).1 ⟨bit, dir, h, rfl⟩⟩
  | _ => simp [LegalFields, Instr.opcode, Instr.argField, Instr.dataField, usesArg, usesData]

/-- Every legal choice of fields is a command's: one for each of the seventeen opcodes. -/
theorem wellFormed_of_legalFields (opc arg : BitVec 8) (data : Word) (h : LegalFields opc arg data) :
    ∃ i : Instr, i.wellFormed = true ∧ opc = i.opcode ∧ arg = i.argField ∧ data = i.dataField := by
  obtain ⟨hrange, harg, hdata, hbit⟩ := h
  have hopc : opc = BitVec.ofNat 8 opc.toNat := by rw [BitVec.ofNat_toNat, BitVec.setWidth_eq]
  generalize opc.toNat = n at *
  subst hopc
  unfold usesArg at harg
  unfold usesData at hdata
  interval_cases n
  · exact ⟨.nop, rfl, rfl, harg (by decide), hdata (by decide)⟩
  · exact ⟨.cfgWrite arg data, rfl, rfl, rfl, rfl⟩
  · exact ⟨.read arg, rfl, rfl, rfl, hdata (by decide)⟩
  · exact ⟨.configure, rfl, rfl, harg (by decide), hdata (by decide)⟩
  · exact ⟨.decSample (data.extractLsb' 0 16) (data.extractLsb' 16 16), rfl, rfl, harg (by decide),
      (frameData_of_halves data).symm⟩
  · exact ⟨.mapLoad data, rfl, rfl, harg (by decide), rfl⟩
  · exact ⟨.encSample, rfl, rfl, harg (by decide), hdata (by decide)⟩
  · exact ⟨.encLoad data, rfl, rfl, harg (by decide), rfl⟩
  · exact ⟨.tmLoad data, rfl, rfl, harg (by decide), rfl⟩
  · exact ⟨.tmAdvance, rfl, rfl, harg (by decide), hdata (by decide)⟩
  · exact ⟨.tmRevert, rfl, rfl, harg (by decide), hdata (by decide)⟩
  · exact ⟨.tmPeekNext, rfl, rfl, harg (by decide), hdata (by decide)⟩
  · exact ⟨.tmPeekPrev, rfl, rfl, harg (by decide), hdata (by decide)⟩
  · obtain ⟨bit, dir, hsteps, hfield⟩ := (tmBit_argField_iff arg).2 (hbit rfl)
    exact ⟨.tmBit bit dir, hsteps, rfl, hfield.symm, hdata (by decide)⟩
  · exact ⟨.tfConfig data, rfl, rfl, harg (by decide), rfl⟩
  · exact ⟨.tfUpdate data, rfl, rfl, harg (by decide), rfl⟩
  · exact ⟨.tfPreview data, rfl, rfl, harg (by decide), rfl⟩

theorem decodes_iff_legalWord (w : CmdWord) : (∃ i, decode w = .ok i) ↔ LegalWord w := by
  simp only [decode_ok_iff, encode_eq_iff, legalWord_iff_fields]
  constructor
  · rintro ⟨i, hwf, hrsv, hopc, harg, hdata⟩
    rw [hopc, harg, hdata]
    exact ⟨hrsv, legalFields_of_wellFormed i hwf⟩
  · rintro ⟨hrsv, hlegal⟩
    obtain ⟨i, hwf, hfields⟩ := wellFormed_of_legalFields _ _ _ hlegal
    exact ⟨i, hwf, hrsv, hfields⟩

/-- Whatever the reason a word is illegal, a step on it reports ILLEGAL_COMMAND and nothing else (R103, R106). -/
theorem rejected_of_decode_error (w : CmdWord) (e : Illegal) (h : decode w = .error e) : Rejected w := by
  intro s rest hs
  rw [step_command s rest w hs, runWord_illegal _ w e h]
  rfl

/-- Settles O3: `decodes_iff_legalWord`, and a word that decodes to no command is rejected. -/
theorem legalWordsExactlyAndOthersRejected : Obligations.LegalWordsExactlyAndOthersRejected := by
  refine fun w => ⟨decodes_iff_legalWord w, fun hillegal => ?_⟩
  cases h : decode w with
  | ok i => exact absurd ((decodes_iff_legalWord w).1 ⟨i, h⟩) hillegal
  | error e => exact rejected_of_decode_error w e h

/-! ## The rows of the opcode table (R105) -/

/-- A row, given by the fields of its mask, selects a word by the word's fields. -/
theorem row_iff_fields (w mask : CmdWord) (opc maskArg : BitVec 8) (maskData : Word)
    (hmask : mask.opc = 0xFF#8 ∧ mask.rsv = 0xFFFF#16 ∧ mask.arg = maskArg ∧ mask.data = maskData) :
    w &&& mask = CmdWord.make opc 0#8 0#32 ↔
      w.rsv = 0#16 ∧ w.opc = opc ∧ w.arg &&& maskArg = 0#8 ∧ w.data &&& maskData = 0#32 := by
  obtain ⟨hopc, hrsv, rfl, rfl⟩ := hmask
  have hand_opc : (w &&& mask).opc = w.opc :=
    BitVec.extractLsb'_and.trans ((congrArg (w.opc &&& ·) hopc).trans BitVec.and_allOnes)
  have hand_rsv : (w &&& mask).rsv = w.rsv :=
    BitVec.extractLsb'_and.trans ((congrArg (w.rsv &&& ·) hrsv).trans BitVec.and_allOnes)
  have hand_arg : (w &&& mask).arg = w.arg &&& mask.arg := BitVec.extractLsb'_and
  have hand_data : (w &&& mask).data = w.data &&& mask.data := BitVec.extractLsb'_and
  rw [eq_comm, make_eq_iff, hand_opc, hand_rsv, hand_arg, hand_data]

/-- The row of a command without operands fixes every bit: its one word is the command's. -/
theorem opcodeRow_iff (w : CmdWord) (i : Instr) (hwf : i.wellFormed = true) :
    w &&& 0xFFFFFFFFFFFFFFFF#64 = encode i ↔ decode w = .ok i := by
  have hmask : w &&& 0xFFFFFFFFFFFFFFFF#64 = w := BitVec.and_allOnes
  rw [hmask, decode_ok_iff, and_iff_right hwf, eq_comm]

/-- The row of a command whose only operand is DATA fixes every bit outside DATA. -/
theorem dataRow_iff (w : CmdWord) (opc : BitVec 8) (f : Word → Instr) (hwf : ∀ v, (f v).wellFormed = true)
    (henc : ∀ v, encode (f v) = CmdWord.make opc 0#8 v) :
    w &&& 0x00000000FFFFFFFF#64 = CmdWord.make opc 0#8 0#32 ↔ ∃ v, decode w = .ok (f v) := by
  have harg : w.arg &&& 0xFF#8 = w.arg := BitVec.and_allOnes
  rw [row_iff_fields w _ opc 0xFF#8 0#32 ⟨rfl, rfl, rfl, rfl⟩, harg, BitVec.and_zero]
  simp [decode_ok_iff, hwf, henc, make_eq_iff]

/-- DEC_SAMPLE's row is a DATA row: every DATA is a frame (R107). -/
theorem decSampleRow_iff (w : CmdWord) :
    w &&& 0x00000000FFFFFFFF#64 = CmdWord.make 0x04#8 0#8 0#32 ↔ ∃ a b, decode w = .ok (.decSample a b) := by
  rw [dataRow_iff w 0x04#8 (fun v => .decSample (v.extractLsb' 0 16) (v.extractLsb' 16 16)) (fun _ => rfl)
    fun v => by rw [encode, Instr.dataField, frameData_of_halves]; rfl]
  constructor
  · rintro ⟨v, h⟩
    exact ⟨_, _, h⟩
  · rintro ⟨a, b, h⟩
    exact ⟨frameData a b, by rw [frameData_low, frameData_high, h]⟩

theorem cfgWriteRow_iff (w : CmdWord) :
    w &&& 0x00000000FFFF00FF#64 = CmdWord.make 0x01#8 0#8 0#32 ↔ ∃ i v, decode w = .ok (.cfgWrite i v) := by
  rw [row_iff_fields w _ 0x01#8 0#8 0#32 ⟨rfl, rfl, rfl, rfl⟩, BitVec.and_zero, BitVec.and_zero]
  simp [decode_ok_iff, encode_eq_iff, Instr.wellFormed, Instr.opcode, Instr.argField, Instr.dataField]

theorem readRow_iff (w : CmdWord) :
    w &&& 0xFFFFFFFFFFFF00FF#64 = CmdWord.make 0x02#8 0#8 0#32 ↔ ∃ i, decode w = .ok (.read i) := by
  have hdata : w.data &&& 0xFFFFFFFF#32 = w.data := BitVec.and_allOnes
  rw [row_iff_fields w _ 0x02#8 0#8 0xFFFFFFFF#32 ⟨rfl, rfl, rfl, rfl⟩, BitVec.and_zero, hdata]
  simp [decode_ok_iff, encode_eq_iff, Instr.wellFormed, Instr.opcode, Instr.argField, Instr.dataField]

theorem and_bits_from_three_eq_zero_iff (arg : BitVec 8) : arg &&& 0xF8#8 = 0#8 ↔ arg.toNat / 8 = 0 := by
  revert arg; decide

theorem tmBitRow_iff (w : CmdWord) :
    w &&& 0xFFFFFFFFFFFFF8FF#64 = CmdWord.make 0x0D#8 0#8 0#32 ∧ (argOf w / 2 % 4 = 1 ∨ argOf w / 2 % 4 = 2) ↔
      ∃ b d, decode w = .ok (.tmBit b d) := by
  have hdata : w.data &&& 0xFFFFFFFF#32 = w.data := BitVec.and_allOnes
  rw [row_iff_fields w _ 0x0D#8 0xF8#8 0xFFFFFFFF#32 ⟨rfl, rfl, rfl, rfl⟩, hdata, and_bits_from_three_eq_zero_iff, argOf,
    ← arg_toNat]
  simp only [decode_ok_iff, encode_eq_iff]
  constructor
  · rintro ⟨⟨hrsv, hopc, hhigh, hdata⟩, hcode⟩
    obtain ⟨bit, dir, hsteps, hfield⟩ := (tmBit_argField_iff w.arg).2 ⟨hhigh, hcode⟩
    exact ⟨bit, dir, hsteps, hrsv, hopc, hfield.symm, hdata⟩
  · rintro ⟨bit, dir, hsteps, hrsv, hopc, hfield, hdata⟩
    obtain ⟨hhigh, hcode⟩ := (tmBit_argField_iff w.arg).1 ⟨bit, dir, hsteps, hfield.symm⟩
    exact ⟨⟨hrsv, hopc, hhigh, hdata⟩, hcode⟩

/-- Settles O4: each row by the lemma of its form; the match is the word of the row's opcode alone. -/
theorem tableRowsSelectTheirCommands : Obligations.TableRowsSelectTheirCommands := fun w =>
  ⟨opcodeRow_iff w .nop rfl,
    cfgWriteRow_iff w,
    readRow_iff w,
    opcodeRow_iff w .configure rfl,
    decSampleRow_iff w,
    dataRow_iff w 0x05#8 .mapLoad (fun _ => rfl) (fun _ => rfl),
    opcodeRow_iff w .encSample rfl,
    dataRow_iff w 0x07#8 .encLoad (fun _ => rfl) (fun _ => rfl),
    dataRow_iff w 0x08#8 .tmLoad (fun _ => rfl) (fun _ => rfl),
    opcodeRow_iff w .tmAdvance rfl,
    opcodeRow_iff w .tmRevert rfl,
    opcodeRow_iff w .tmPeekNext rfl,
    opcodeRow_iff w .tmPeekPrev rfl,
    tmBitRow_iff w,
    dataRow_iff w 0x0E#8 .tfConfig (fun _ => rfl) (fun _ => rfl),
    dataRow_iff w 0x0F#8 .tfUpdate (fun _ => rfl) (fun _ => rfl),
    dataRow_iff w 0x10#8 .tfPreview (fun _ => rfl) (fun _ => rfl)⟩

end Sys2Proof.Machine

/-! PROOFS of family 40_smoothing_filter: the filter step lies between its state and its input (O33), a constant input is
reached (O34), and the three commands of the test filter (O30 to O32). The whole filter rests on `filterStep_eq`, which
reads a step as the spec's value, and on `truncDiv_between`. -/

namespace Sys2Proof.Machine

open Sys2Proof.Spec

/-! ## The value of R130 -/

theorem filterStep_eq (f : FilterState) (x : Int) (a : Nat) :
    filterStep f x a = ⟨BitVec.ofInt 32 (filterValue f x a), true⟩ := by
  rw [filterStep, filterValue]
  split <;> rfl

theorem filterValue_of_init (f : FilterState) (x : Int) (a : Nat) (h : f.init = true) :
    filterValue f x a = filterNext f.s.toInt x a := by
  rw [filterValue, if_pos h]

theorem filterValue_of_not_init (f : FilterState) (x : Int) (a : Nat) (h : f.init = false) : filterValue f x a = x := by
  rw [filterValue, h]; rfl

theorem filterNext_eq_truncDiv (st x : Int) (a : Nat) :
    filterNext st x a = x + truncDiv ((65536 - (a : Int)) * (st - x)) 65536 := rfl

/-! ## The step lies between its state and its input (R130) -/

theorem filterNext_between (st x : Int) (a : Nat) (ha1 : 1 ≤ a) (ha2 : a ≤ 65536) :
    min st x ≤ filterNext st x a ∧ filterNext st x a ≤ max st x := by
  obtain ⟨hup, hdown, _⟩ := truncDiv_between (65536 - (a : Int)) (st - x) (by omega) (by omega)
  rw [filterNext_eq_truncDiv]
  omega

/-- Lying between two 32-bit values, the new state fits the register, so nothing is lost in storing it. -/
theorem filterStep_toInt_of_init (f : FilterState) (x : Int) (a : Nat) (ha1 : 1 ≤ a) (ha2 : a ≤ 65536)
    (hx0 : -(2 ^ 31) ≤ x) (hx1 : x < 2 ^ 31) (h : f.init = true) :
    (filterStep f x a).s.toInt = filterNext f.s.toInt x a := by
  have hfit := word_toInt_fits f.s
  have hbetween := filterNext_between f.s.toInt x a ha1 ha2
  rw [filterStep_eq, filterValue_of_init f x a h]
  exact toInt_ofInt_of_fits _ (by omega) (by omega)

/-- Settles O33: the first step stores its input, a later one `filterNext`, which lies between the two. -/
theorem filterStepStaysBetween : Obligations.FilterStepStaysBetween := by
  intro f x a ha1 ha2 hx0 hx1
  refine ⟨filterStep_init f x a, fun h => ?_, fun h => ?_⟩
  · rw [filterStep_eq, filterValue_of_not_init f x a h]
    exact toInt_ofInt_of_fits x hx0 hx1
  · rw [filterStep_toInt_of_init f x a ha1 ha2 hx0 hx1 h]
    exact ⟨rfl, filterNext_between f.s.toInt x a ha1 ha2⟩

/-! ## A constant input is reached (R136) -/

/-- A step brings the state nearer to its input by at least 1, unless it is there already. -/
theorem filterNext_distance_le (st x : Int) (a : Nat) (ha1 : 1 ≤ a) (ha2 : a ≤ 65536) :
    (filterNext st x a - x).natAbs ≤ (st - x).natAbs - 1 := by
  obtain ⟨hup, hdown, hlt, hgt⟩ := truncDiv_between (65536 - (a : Int)) (st - x) (by omega) (by omega)
  rw [filterNext_eq_truncDiv]
  omega

theorem filterNext_of_alpha_one (st x : Int) : filterNext st x 65536 = x := by
  simp [filterNext]

/-- With A = 32768 the kept part of the difference is a half: 32768 * d / 65536 = d / 2, toward zero. -/
theorem filterNext_of_alpha_half (st x : Int) : filterNext st x 32768 - x = Int.tdiv (st - x) 2 := by
  have hhalf : Int.tdiv (32768 * (st - x)) (32768 * 2) = Int.tdiv (st - x) 2 := Int.mul_tdiv_mul_of_pos _ _ (by decide)
  rw [← hhalf, filterNext, add_sub_cancel_left]
  rfl

/-- By induction on the number of steps, each of which takes at least 1 off the distance. -/
theorem filterStep_iterate_reaches (f : FilterState) (v : Int) (a n : Nat) (ha1 : 1 ≤ a) (ha2 : a ≤ 65536)
    (hv0 : -(2 ^ 31) ≤ v) (hv1 : v < 2 ^ 31) (h : f.init = true) (hn : (f.s.toInt - v).natAbs ≤ n) :
    ((fun g => filterStep g v a)^[n] f).s.toInt = v := by
  induction n generalizing f with
  | zero => rw [Function.iterate_zero_apply]; omega
  | succ n ih =>
    have hstep := filterNext_distance_le f.s.toInt v a ha1 ha2
    rw [← filterStep_toInt_of_init f v a ha1 ha2 hv0 hv1 h] at hstep
    rw [Function.iterate_succ_apply]
    exact ih (filterStep f v a) (filterStep_init f v a) (by omega)

/-- Settles O34: the distance falls by at least 1 a step, and the two named factors give the input and the half. -/
theorem filterConvergesToConstantInput : Obligations.FilterConvergesToConstantInput := by
  intro f v a ha1 ha2 hv0 hv1 h
  have hdist := filterNext_distance_le f.s.toInt v a ha1 ha2
  rw [filterStep_toInt_of_init f v a ha1 ha2 hv0 hv1 h]
  refine ⟨fun hne => by omega, fun n => filterStep_iterate_reaches f v a n ha1 ha2 hv0 hv1 h, ?_, ?_⟩
  · rintro rfl
    exact filterNext_of_alpha_one f.s.toInt v
  · rintro rfl
    exact filterNext_of_alpha_half f.s.toInt v

/-! ## The test filter's commands (R133 to R135) -/

theorem factorLegal_iff (a : Word) : factorLegal a = true ↔ 1 ≤ a.toNat ∧ a.toNat ≤ 65536 := by
  simp [factorLegal]

/-- A command that does not use ARG is rejected when ARG or RSV is not 0 (R103). -/
theorem rejected_of_arg_or_rsv (w : CmdWord) (hopc : ¬ usesArg (opcOf w)) (h : argOf w ≠ 0 ∨ rsvOf w ≠ 0) : Rejected w := by
  refine (legalWordsExactlyAndOthersRejected w).2 fun ⟨_, hrsv, harg, _⟩ => ?_
  exact h.elim (fun hne => hne (harg hopc)) (fun hne => hne hrsv)

theorem exec_tfConfig_legal (s : State) (a : Word) (h : factorLegal a = true) :
    exec (.tfConfig a) s = .next (succeed { s with tfAlpha := a, tf := ⟨0#32, false⟩, res0 := a }) := by
  rw [exec_eq_commit (.tfConfig a) s nofun, commandBody, if_pos h, commit_ok]

theorem exec_tfConfig_illegal (s : State) (a : Word) (h : ¬ factorLegal a = true) :
    exec (.tfConfig a) s = .next (raiseError .invalidParameter s) := by
  rw [exec_eq_commit (.tfConfig a) s nofun, commandBody, if_neg h, commit_error]

/-- Settles O30: the factor's legality decides between the two answers. -/
theorem tfConfigStoresFactor : Obligations.TfConfigStoresFactor := by
  refine ⟨fun s a h1 h2 => ?_, fun s a h => ?_, fun w hopc => rejected_of_arg_or_rsv w (by rw [usesArg]; omega)⟩
  · exact exec_tfConfig_legal s a ((factorLegal_iff a).2 ⟨h1, h2⟩)
  · exact exec_tfConfig_illegal s a (by rw [factorLegal_iff]; omega)

theorem tfNext_eq (s : State) (x : Word) :
    tfNext s x = ⟨BitVec.ofInt 32 (filterValue s.tf x.toInt s.tfAlpha.toNat), true⟩ :=
  filterStep_eq ..

/-- A preview is the state an update would store (R131). -/
theorem filterPreview_eq_tfNext (s : State) (x : Word) :
    filterPreview s.tf (signedData x) s.tfAlpha.toNat = (tfNext s x).s := rfl

/-- Settles O31: TF_UPDATE stores and returns `tfNext`, the filter step's value. -/
theorem tfUpdateFiltersInput : Obligations.TfUpdateFiltersInput := by
  refine ⟨fun s x => ?_, fun w hopc => rejected_of_arg_or_rsv w (by rw [usesArg]; omega)⟩
  rw [exec_eq_commit (.tfUpdate x) s nofun, commandBody, commit_ok, tfNext_eq]
  rfl

/-- Settles O32: TF_PREVIEW returns the same value and writes nothing else. -/
theorem tfPreviewLeavesFilter : Obligations.TfPreviewLeavesFilter := by
  refine ⟨fun s x => ?_, fun w hopc => rejected_of_arg_or_rsv w (by rw [usesArg]; omega)⟩
  rw [exec_eq_commit (.tfPreview x) s nofun, commandBody, commit_ok, filterPreview_eq_tfNext, tfNext_eq]
  rfl

end Sys2Proof.Machine

/-! PROOFS of family 41_lfsr_generator: the zero state (O21), the test generator's commands (O35 to O37) and that Advance
and Revert are inverse (O38). The generator is read twice: as plain numbers (`advance_eq_numbers`, `revert_eq_numbers`),
which give the results of the commands, and bit by bit (`advance_bits`, `revert_bits`), which give the inverse. -/

namespace Sys2Proof.Machine

open Sys2Proof.Spec

/-! ## Words and parities as numbers -/

theorem bitWord_eq_ofNat_one (b : Bool) : bitWord b = BitVec.ofNat 32 (one b) := by cases b <;> rfl

theorem bitWord_bit_zero (v : Word) : bitWord (v.getLsbD 0) = BitVec.ofNat 32 (v.toNat % 2) := by
  have hbit : one (v.getLsbD 0) = v.toNat % 2 := by
    rw [BitVec.getLsbD, Nat.testBit_zero, one]
    rcases Nat.mod_two_eq_zero_or_one v.toNat with h | h <;> rw [h] <;> rfl
  rw [bitWord_eq_ofNat_one, hbit]

/-- Counting the 1 bits below n and taking their XOR agree, bit by bit. -/
theorem count_ones_odd_eq_parityBelow (v : Word) (n : Nat) :
    (((List.range n).filter fun i => v.toNat.testBit i).length % 2 == 1) = parityBelow v n := by
  induction n with
  | zero => rfl
  | succ n ih =>
    rw [parityBelow, ← ih, List.range_succ, List.filter_append, List.length_append, BitVec.getLsbD]
    generalize ((List.range n).filter fun i => v.toNat.testBit i).length = k
    cases h : v.toNat.testBit n with
    | false => simp [h]
    | true => rcases Nat.mod_two_eq_zero_or_one k with hk | hk <;> simp [h, hk, Nat.add_mod]

theorem oddOnes_toNat (v : Word) : oddOnes v.toNat = parity v := count_ones_odd_eq_parityBelow v 32

theorem advanceBit_eq_feedback (p : ConfigRegs) (st : Word) : advanceBit p st = feedback p st := by
  rw [advanceBit, ← BitVec.toNat_and, oddOnes_toNat, feedback]

/-- Revert's tap mask: with W at most 32 its top bit is not shifted out. -/
theorem revertTaps_toNat (p : ConfigRegs) (hp : p.FormatLegal) :
    (revertTaps p).toNat = p.taps.toNat / 2 ||| 2 ^ (p.width.toNat - 1) := by
  obtain ⟨hw1, hw2⟩ := formatLegal_width p hp
  have htop : (1#32 <<< (p.width.toNat - 1)).toNat = 2 ^ (p.width.toNat - 1) := BitVec.toNat_twoPow_of_lt (by omega)
  rw [revertTaps, BitVec.toNat_or, htop, BitVec.toNat_ushiftRight, Nat.shiftRight_eq_div_pow, Nat.pow_one]

theorem revertBit_eq_parity (p : ConfigRegs) (st : Word) (hp : p.FormatLegal) :
    revertBit p st = parity (st &&& revertTaps p) := by
  rw [revertBit, ← revertTaps_toNat p hp, ← BitVec.toNat_and, oddOnes_toNat]

/-! ## Advance and Revert as numbers (R150, R151) -/

theorem advance_zero (p : ConfigRegs) : advance p 0#32 = .error .lfsrZero := (advance_error ..).2 ⟨rfl, rfl⟩

theorem revert_zero (p : ConfigRegs) : revert p 0#32 = .error .lfsrZero := (revert_error ..).2 ⟨rfl, rfl⟩

theorem eq_ofNat_of_toNat_eq (v : Word) (n : Nat) (h : v.toNat = n) : v = BitVec.ofNat 32 n := by
  rw [← h, BitVec.ofNat_toNat, BitVec.setWidth_eq]

section
variable (p : ConfigRegs) (st : Word) (hp : p.FormatLegal) (hr : p.InRange st)
include hp hr

theorem advance_eq_numbers :
    advance p st = .ok ⟨BitVec.ofNat 32 (advanceNext p st), advanceBit p st, st.getLsbD 0⟩ := by
  obtain ⟨hw1, hw2⟩ := formatLegal_width p hp
  have hnext := shiftRight_insert_toNat st _ (feedback p st) hw1 hw2 hr.2
  rw [← advanceBit_eq_feedback] at hnext
  rw [advance_ok p st (inRange_ne_zero p st hr), ← advanceBit_eq_feedback, eq_ofNat_of_toNat_eq _ _ hnext]
  rfl

theorem revert_eq_numbers :
    revert p st = .ok ⟨BitVec.ofNat 32 (revertNext p st), revertBit p st, topBit p st⟩ := by
  obtain ⟨hw1, hw2⟩ := formatLegal_width p hp
  have hnext := shiftLeft_insert_toNat st _ (revertBit p st) hw1 hw2
  rw [revert_ok p st (inRange_ne_zero p st hr), ← revertBit_eq_parity p st hp, eq_ofNat_of_toNat_eq _ _ hnext]
  rfl

/-! ## Advance and Revert bit by bit, and their inverse (R153) -/

/-- Advance moves every bit down by one and puts the feedback bit at W-1. -/
theorem advance_bits (g : GenStep) (hg : advance p st = .ok g) :
    (∀ i, g.next.getLsbD i = if i + 1 = p.width.toNat then g.fb else st.getLsbD (i + 1)) ∧
    g.fb = (st.getLsbD 0 ^^ parityBelow ((st >>> 1) &&& (p.taps >>> 1)) (p.width.toNat - 1)) := by
  rw [advance_ok p st (inRange_ne_zero p st hr)] at hg
  cases hg
  exact ⟨fun i => shiftRight_insert_getLsbD p st _ i hp hr.2, feedback_split p st hp hr.2⟩

/-- Revert moves every bit up by one, drops bit W-1 and puts the recovered bit at 0. -/
theorem revert_bits (g : GenStep) (hg : revert p st = .ok g) :
    (∀ i, g.next.getLsbD i = if i = 0 then g.fb else decide (i < p.width.toNat) && st.getLsbD (i - 1)) ∧
    g.fb = (st.getLsbD (p.width.toNat - 1) ^^ parityBelow (st &&& (p.taps >>> 1)) (p.width.toNat - 1)) := by
  rw [revert_ok p st (inRange_ne_zero p st hr)] at hg
  cases hg
  exact ⟨fun i => shiftLeft_insert_getLsbD p st _ i hp, revert_feedback_split p st hp hr.2⟩

/-- Of the advanced state Revert recovers bit 0: the taps above it are the ones Advance summed, so they cancel. -/
theorem revert_of_advance (g h : GenStep) (hg : advance p st = .ok g) (hgr : p.InRange g.next)
    (hh : revert p g.next = .ok h) : h.next = st := by
  obtain ⟨hw1, hw2⟩ := formatLegal_width p hp
  obtain ⟨hgbit, hgfb⟩ := advance_bits p st hp hr g hg
  obtain ⟨hhbit, hhfb⟩ := revert_bits p g.next hp hgr h hh
  have htop : g.next.getLsbD (p.width.toNat - 1) = g.fb := by rw [hgbit, if_pos (by omega)]
  have htaps : parityBelow (g.next &&& (p.taps >>> 1)) (p.width.toNat - 1) =
      parityBelow ((st >>> 1) &&& (p.taps >>> 1)) (p.width.toNat - 1) := by
    refine parityBelow_congr _ _ _ fun i hi => ?_
    rw [BitVec.getLsbD_and, BitVec.getLsbD_and, hgbit, if_neg (by omega), BitVec.getLsbD_ushiftRight st, Nat.add_comm 1 i]
  have hbit0 : h.fb = st.getLsbD 0 := by rw [hhfb, htop, htaps, hgfb, Bool.xor_assoc, Bool.xor_self, Bool.xor_false]
  refine BitVec.eq_of_getLsbD_eq fun i _ => ?_
  rw [hhbit]
  by_cases hi0 : i = 0
  · rw [if_pos hi0, hbit0, hi0]
  · rw [if_neg hi0]
    by_cases hiw : i < p.width.toNat
    · rw [decide_eq_true hiw, Bool.true_and, hgbit, if_neg (by omega), Nat.sub_add_cancel (by omega)]
    · rw [decide_eq_false hiw, Bool.false_and, getLsbD_of_lt_two_pow st _ i hr.2 (by omega)]

/-- Of the reverted state Advance recomputes bit W-1: the taps below it are the ones Revert summed, so they cancel. -/
theorem advance_of_revert (g h : GenStep) (hg : revert p st = .ok g) (hgr : p.InRange g.next)
    (hh : advance p g.next = .ok h) : h.next = st := by
  obtain ⟨hw1, hw2⟩ := formatLegal_width p hp
  obtain ⟨hgbit, hgfb⟩ := revert_bits p st hp hr g hg
  obtain ⟨hhbit, hhfb⟩ := advance_bits p g.next hp hgr h hh
  have hup (i : Nat) (hi : i + 1 < p.width.toNat) : g.next.getLsbD (i + 1) = st.getLsbD i := by
    rw [hgbit, if_neg (by omega), decide_eq_true hi, Bool.true_and, Nat.add_sub_cancel]
  have hlow : g.next.getLsbD 0 = g.fb := by rw [hgbit, if_pos rfl]
  have htaps : parityBelow ((g.next >>> 1) &&& (p.taps >>> 1)) (p.width.toNat - 1) =
      parityBelow (st &&& (p.taps >>> 1)) (p.width.toNat - 1) := by
    refine parityBelow_congr _ _ _ fun i hi => ?_
    rw [BitVec.getLsbD_and, BitVec.getLsbD_and, BitVec.getLsbD_ushiftRight, Nat.add_comm 1 i, hup i (by omega)]
  have hbitTop : h.fb = st.getLsbD (p.width.toNat - 1) := by
    rw [hhfb, hlow, htaps, hgfb, Bool.xor_assoc, Bool.xor_self, Bool.xor_false]
  refine BitVec.eq_of_getLsbD_eq fun i _ => ?_
  rw [hhbit]
  by_cases hitop : i + 1 = p.width.toNat
  · rw [if_pos hitop, hbitTop, ← hitop, Nat.add_sub_cancel]
  · rw [if_neg hitop]
    by_cases hiw : i + 1 < p.width.toNat
    · exact hup i hiw
    · rw [hgbit, if_neg (by omega), decide_eq_false hiw, Bool.false_and,
        getLsbD_of_lt_two_pow st _ i hr.2 (by omega)]

end

/-- Settles O38: both steps succeed and stay in range (`advance_inRange`, `revert_inRange`), and each undoes the other. -/
theorem advanceAndRevertAreInverse : Obligations.AdvanceAndRevertAreInverse := by
  intro p st hp hr
  constructor
  · obtain ⟨g, hg, hgr⟩ := advance_inRange p st hp hr
    obtain ⟨h, hh, _⟩ := revert_inRange p g.next hp hgr
    exact ⟨g, h, hg, hgr, hh, revert_of_advance p st hp hr g h hg hgr hh⟩
  · obtain ⟨g, hg, hgr⟩ := revert_inRange p st hp hr
    obtain ⟨h, hh, _⟩ := advance_inRange p g.next hp hgr
    exact ⟨g, h, hg, hgr, hh, advance_of_revert p st hp hr g h hg hgr hh⟩

/-! ## A step from the zero state (R152) -/

/-- A command past its gate ends with what its body computed. -/
theorem exec_of_gated_body (i : Instr) (s : State) (body : Except ErrCode State) (hi : i ≠ .configure)
    (hc : s.configured = true) (hf : s.fault = false) (h : commandBody i s = gated s body) :
    exec i s = commit s body := by
  rw [exec_eq_commit i s hi, h, gated_open s body hc hf]

/-- A command whose body meets the zero state reports LFSR_ZERO, sets FAULT and writes nothing else (R342). -/
theorem exec_of_gated_lfsrZero (i : Instr) (s : State) (hi : i ≠ .configure) (hc : s.configured = true)
    (hf : s.fault = false) (h : commandBody i s = gated s (.error .lfsrZero)) :
    exec i s = .next { s with fault := true, lastErr := .lfsrZero } := by
  rw [exec_of_gated_body i s _ hi hc hf h]
  rfl

theorem steps_of_ne_stopped (d : Direction) (hd : d ≠ .stopped) : d.steps = true := by
  cases d with
  | stopped => exact absurd rfl hd
  | forward | backward => rfl

theorem tmBitBody_zero (s : State) (b : Bool) (d : Direction) (hd : d ≠ .stopped) (hz : s.tmS = 0#32) :
    tmBitBody b d s = .error .lfsrZero := by
  rw [tmBitBody, (mapperStep_error s.act s.tmS b d _ hd).2 ⟨hz, rfl⟩]

/-- The increment of R284 as the model computes it: a legal SR and pulse constant leave no division by zero. -/
theorem encInc_eq_encStride (s : State) (hl : s.act.Legal) :
    encInc s.act s.encSpeed (encBit s.act s.encSE) = encStride s := by
  obtain ⟨⟨hsr, _⟩, _, _, _, hk0, hk1, _⟩ := hl
  have hk : 0 < if feedback s.act s.encSE then s.act.k1.toNat else s.act.k0.toNat := by split <;> omega
  rw [encInc, encBit, encStride, advanceBit_eq_feedback, floorDiv_pos _ _ (Nat.mul_pos hsr hk)]

/-- A sample that crosses a boundary steps SE, in the direction of ENC_DIR. -/
theorem encMove_zero (s : State) (hl : s.act.Legal) (hz : s.encSE = 0#32) (hx : encCrosses s = true) :
    encMove s = .error .lfsrZero := by
  rw [encMove, encInc_eq_encStride s hl, hz]
  rw [encCrosses] at hx
  cases hd : s.encDir with
  | stopped => rw [hd] at hx; cases hx
  | forward =>
    rw [hd] at hx
    simp only [encForward, if_pos (of_decide_eq_true hx), advance_zero]
  | backward =>
    rw [hd] at hx
    simp only [encBackward, if_pos (of_decide_eq_true hx), revert_zero]

theorem feedBit_zero (p : ConfigRegs) (m : Mapper) (tracking : Bool) (d : Direction) (b : Bool) (hd : d ≠ .stopped)
    (hz : m.s = 0#32) : feedBit p m tracking d b = .error .lfsrZero := by
  rw [feedBit, (mapperStep_error p m.s b d _ hd).2 ⟨hz, rfl⟩]

/-- A frame that feeds the mapper a bit while it moves steps S. -/
theorem decodeFrame_zero (s : State) (a b : Sample) (hz : s.map.s = 0#32) (hx : (stepA s a).xing = true)
    (hbit : (stepA s a).hasBit = true) (hd : frameDir s a b ≠ .stopped) : decodeFrame s a b = .error .lfsrZero := by
  have hfeed : frameFeed s a b = .error .lfsrZero := by
    rw [frameFeed]
    rcases mapperFeed_cases s.act s.map s.sync.tracking (frameDir s a b) (stepA s a) with ⟨h, _⟩ | ⟨_, h, _⟩ | ⟨_, _, h⟩
    · rw [hx, hbit] at h; cases h
    · exact absurd h hd
    · rw [h, feedBit_zero _ _ _ _ _ hd hz]
  rw [decodeFrame, hfeed]

/-- Settles O21: behind its open gate each command's computation meets Advance or Revert of 0. -/
theorem zeroStateRaisesLfsrZero : Obligations.ZeroStateRaisesLfsrZero := by
  refine ⟨fun s i hc hf hz hi => ?_, fun s hc hf hl hz hx => ?_, fun s a b hc hf hz hx hbit hd => ?_⟩
  · rcases hi with rfl | rfl | rfl | rfl | ⟨b, d, rfl, hd⟩
    · exact exec_of_gated_lfsrZero _ s nofun hc hf (by rw [commandBody, hz, advance_zero]; rfl)
    · exact exec_of_gated_lfsrZero _ s nofun hc hf (by rw [commandBody, hz, revert_zero]; rfl)
    · exact exec_of_gated_lfsrZero _ s nofun hc hf (by rw [commandBody, hz, advance_zero]; rfl)
    · exact exec_of_gated_lfsrZero _ s nofun hc hf (by rw [commandBody, hz, revert_zero]; rfl)
    · exact exec_of_gated_lfsrZero _ s nofun hc hf
        (by rw [commandBody, if_pos (steps_of_ne_stopped d hd), tmBitBody_zero s b d hd hz])
  · exact exec_of_gated_lfsrZero _ s nofun hc hf (by rw [commandBody, encodeFrame, encMove_zero s hl hz hx])
  · exact exec_of_gated_lfsrZero _ s nofun hc hf (by rw [commandBody, decodeFrame_zero s a b hz hx hbit hd])

/-! ## Gating and illegal words of the test generator's commands (R103, R344, R345) -/

theorem commandBody_of_needsConfig (i : Instr) (h : needsConfig i = true) (s : State) :
    ∃ body, commandBody i s = gated s body := by
  cases i with
  | tmBit b d => exact ⟨_, if_pos h⟩
  | decSample | mapLoad | encSample | encLoad | tmLoad | tmAdvance | tmRevert | tmPeekNext | tmPeekPrev => exact ⟨_, rfl⟩
  | nop | cfgWrite | read | configure | tfConfig | tfUpdate | tfPreview => cases h

/-- The commands that need the configuration are gated, whatever their body. -/
theorem gated_of_needsConfig (i : Instr) (h : needsConfig i = true) : Gated i := by
  have hi : i ≠ .configure := by rintro rfl; cases h
  intro s
  obtain ⟨body, hbody⟩ := commandBody_of_needsConfig i h s
  rw [exec_eq_commit i s hi, hbody]
  refine ⟨fun hc => ?_, fun hc hf => ?_⟩
  · rw [gated_not_configured s body hc]; rfl
  · rw [gated_faulted s body hc hf]; rfl

/-- A command without operands has one legal word, its opcode (R103). -/
theorem rejected_of_ne_opcode (w : CmdWord) (opc : Nat) (hopc : opcOf w = opc) (harg : ¬ usesArg opc)
    (hdata : ¬ usesData opc) (hne : w ≠ BitVec.ofNat 64 opc) : Rejected w := by
  subst hopc
  refine (legalWordsExactlyAndOthersRejected w).2 fun ⟨_, hrsv, hargZero, hdataZero, _⟩ => hne ?_
  have ha := hargZero harg
  have hd := hdataZero hdata
  apply BitVec.eq_of_toNat_eq
  rw [BitVec.toNat_ofNat]
  unfold opcOf argOf rsvOf dataOf at *
  omega

/-! ## The test generator's commands (R155 to R159) -/

/-- Settles O35: TM_LOAD's operand check is membership in [1, 2^W - 1]. -/
theorem tmLoadLoadsGenerator : Obligations.TmLoadLoadsGenerator := by
  refine ⟨fun s v hc hf hv => ?_, fun s v hc hf hv => ?_, fun v => gated_of_needsConfig _ rfl,
    fun w hopc => rejected_of_arg_or_rsv w (by rw [usesArg]; omega)⟩
  · rw [exec_of_gated_body (.tmLoad v) s _ nofun hc hf rfl, if_pos ((positionLegal_iff _ _).2 hv)]
    rfl
  · rw [exec_of_gated_body (.tmLoad v) s _ nofun hc hf rfl, if_neg (mt (positionLegal_iff _ _).1 hv)]
    rfl

theorem advance_tmS_eq_numbers (s : State) (h : Ready s) :
    advance s.act s.tmS = .ok ⟨BitVec.ofNat 32 (advanceNext s.act s.tmS), advanceBit s.act s.tmS, s.tmS.getLsbD 0⟩ :=
  advance_eq_numbers _ _ (ready_legal s h).1 (ready_sessions s h).2.2

theorem revert_tmS_eq_numbers (s : State) (h : Ready s) :
    revert s.act s.tmS =
      .ok ⟨BitVec.ofNat 32 (revertNext s.act s.tmS), revertBit s.act s.tmS, topBit s.act s.tmS⟩ :=
  revert_eq_numbers _ _ (ready_legal s h).1 (ready_sessions s h).2.2

/-- Settles O36: both commands report the numbers of Advance, and TM_ADVANCE stores the state too. -/
theorem tmAdvanceAndPeekNext : Obligations.TmAdvanceAndPeekNext := by
  refine ⟨fun s h => ?_, fun s hc hf hz => ?_, gated_of_needsConfig _ rfl, gated_of_needsConfig _ rfl,
    fun w hopc => rejected_of_ne_opcode w 0x09 hopc (by rw [usesArg]; decide) (by rw [usesData]; decide),
    fun w hopc => rejected_of_ne_opcode w 0x0B hopc (by rw [usesArg]; decide) (by rw [usesData]; decide)⟩
  · have ⟨hc, _, hf, _⟩ := h
    rw [exec_of_gated_body .tmAdvance s _ nofun hc hf rfl, exec_of_gated_body .tmPeekNext s _ nofun hc hf rfl,
      advance_tmS_eq_numbers s h, ← bitWord_bit_zero, ← bitWord_eq_ofNat_one]
    exact ⟨rfl, rfl⟩
  · obtain ⟨hzero, _⟩ := zeroStateRaisesLfsrZero
    exact ⟨hzero s .tmAdvance hc hf hz (by simp), hzero s .tmPeekNext hc hf hz (by simp)⟩

/-- Settles O37: both commands report the numbers of Revert, and TM_REVERT stores the state too. -/
theorem tmRevertAndPeekPrev : Obligations.TmRevertAndPeekPrev := by
  refine ⟨fun s h => ?_, fun s hc hf hz => ?_, gated_of_needsConfig _ rfl, gated_of_needsConfig _ rfl,
    fun w hopc => rejected_of_ne_opcode w 0x0A hopc (by rw [usesArg]; decide) (by rw [usesData]; decide),
    fun w hopc => rejected_of_ne_opcode w 0x0C hopc (by rw [usesArg]; decide) (by rw [usesData]; decide)⟩
  · have ⟨hc, _, hf, _⟩ := h
    rw [exec_of_gated_body .tmRevert s _ nofun hc hf rfl, exec_of_gated_body .tmPeekPrev s _ nofun hc hf rfl,
      revert_tmS_eq_numbers s h, ← bitWord_eq_ofNat_one, ← bitWord_eq_ofNat_one]
    exact ⟨rfl, rfl⟩
  · obtain ⟨hzero, _⟩ := zeroStateRaisesLfsrZero
    exact ⟨hzero s .tmRevert hc hf hz (by simp), hzero s .tmPeekPrev hc hf hz (by simp)⟩

end Sys2Proof.Machine

/-! PROOFS of family 42_bitstream_mapper: TM_BIT's step and comparison (O39), MAP_LOAD (O40) and the step count law
(O41). A mapper step moves the state as Advance or Revert does, whatever the bit, so TM_BIT reports the numbers of the
generator, and that n steps are undone by n steps the other way follows from the inverse (O38) one step at a time. -/

namespace Sys2Proof.Machine

open Sys2Proof.Spec

/-! ## MapperStep as numbers (R182, R183) -/

theorem advanceNext_lt (p : ConfigRegs) (st : Word) (hp : p.FormatLegal) (hr : p.InRange st) :
    advanceNext p st < 2 ^ 32 := by
  obtain ⟨hw1, hw2⟩ := formatLegal_width p hp
  exact (shiftRight_insert_toNat st _ (advanceBit p st) hw1 hw2 hr.2).symm.trans_lt (BitVec.isLt _)

theorem revertNext_lt (p : ConfigRegs) (st : Word) (hp : p.FormatLegal) : revertNext p st < 2 ^ 32 := by
  obtain ⟨hw1, hw2⟩ := formatLegal_width p hp
  exact (shiftLeft_insert_toNat st _ (revertBit p st) hw1 hw2).symm.trans_lt (BitVec.isLt _)

theorem matchWord_eq_ofNat (isMatch valid : Bool) :
    matchWord isMatch valid = BitVec.ofNat 32 (one isMatch + 2 * one valid) := by
  cases isMatch <;> cases valid <;> rfl

theorem isValid_ofNat (p : ConfigRegs) (n : Nat) (hn : n < 2 ^ 32) :
    isValid p (BitVec.ofNat 32 n) = decide (n < p.valid.toNat) := by
  rw [isValid, BitVec.toNat_ofNat, Nat.mod_eq_of_lt hn]

/-! ## TM_BIT (R183) -/

/-- A TM_BIT past its gate whose mapper step succeeds stores the new position and reports it with MATCH and validity. -/
theorem exec_tmBit_of_mapperStep (s : State) (b : Bool) (d : Direction) (n : Nat) (isMatch : Bool)
    (hd : d ≠ .stopped) (hc : s.configured = true) (hf : s.fault = false) (hn : n < 2 ^ 32)
    (hstep : mapperStep s.act s.tmS b d = .ok (BitVec.ofNat 32 n, isMatch)) :
    exec (.tmBit b d) s = .next
      { s with
        tmS := BitVec.ofNat 32 n
        res0 := BitVec.ofNat 32 n
        res1 := BitVec.ofNat 32 (one isMatch + 2 * one (decide (n < s.act.valid.toNat)))
        lastErr := .ok } := by
  rw [exec_of_gated_body (.tmBit b d) s (tmBitBody b d s) nofun hc hf (if_pos (steps_of_ne_stopped d hd)),
    tmBitBody, hstep, ← isValid_ofNat s.act n hn, ← matchWord_eq_ofNat]
  rfl

/-- TM_BIT is rejected unless its direction code is 1 or 2 and its unused fields are 0 (R103). -/
theorem rejected_of_tmBit_fields (w : CmdWord) (hopc : opcOf w = 0x0D)
    (h : argOf w / 2 % 4 = 0 ∨ argOf w / 2 % 4 = 3 ∨ argOf w / 8 ≠ 0 ∨ rsvOf w ≠ 0 ∨ dataOf w ≠ 0) : Rejected w := by
  refine (legalWordsExactlyAndOthersRejected w).2 fun ⟨_, hrsv, _, hdata, hbit⟩ => ?_
  obtain ⟨hhigh, hcode⟩ := hbit hopc
  have hdataZero : dataOf w = 0 := hdata (by rw [usesData]; omega)
  omega

/-- Settles O39: a mapper step on TM_S is Advance or Revert of it, with the bit compared to f or to S[W-1]. -/
theorem tmBitStepsAndCompares : Obligations.TmBitStepsAndCompares := by
  refine ⟨fun s b h => ?_, fun s b d hd hc hf hz => ?_,
    fun b d hd => gated_of_needsConfig _ (steps_of_ne_stopped d hd), rejected_of_tmBit_fields⟩
  · have ⟨hc, _, hf, _⟩ := h
    obtain ⟨hp, _⟩ := ready_legal s h
    obtain ⟨_, _, hr⟩ := ready_sessions s h
    have hforward := mapperStep_forward s.act s.tmS b _ (advance_tmS_eq_numbers s h)
    have hbackward := mapperStep_backward s.act s.tmS b _ (revert_tmS_eq_numbers s h)
    rw [Bool.beq_eq_decide_eq] at hforward hbackward
    exact ⟨exec_tmBit_of_mapperStep s b .forward _ _ nofun hc hf (advanceNext_lt _ _ hp hr) hforward,
      exec_tmBit_of_mapperStep s b .backward _ _ nofun hc hf (revertNext_lt _ _ hp) hbackward⟩
  · obtain ⟨hzero, _⟩ := zeroStateRaisesLfsrZero
    exact hzero s (.tmBit b d) hc hf hz (by simp [hd])

/-! ## MAP_LOAD (R184) -/

/-- Settles O40: MAP_LOAD's operand check is membership in [1, 2^W - 1]; it asks nothing of VALID. -/
theorem mapLoadResetsMapper : Obligations.MapLoadResetsMapper := by
  refine ⟨fun s p hc hf hr => ?_, fun s p hc hf hr => ?_, fun p => gated_of_needsConfig _ rfl,
    fun w hopc => rejected_of_arg_or_rsv w (by rw [usesArg]; omega)⟩
  · rw [exec_of_gated_body (.mapLoad p) s _ nofun hc hf rfl, if_pos ((positionLegal_iff _ _).2 hr),
      ← bitWord_eq_ofNat_one]
    rfl
  · rw [exec_of_gated_body (.mapLoad p) s _ nofun hc hf rfl, if_neg (mt (positionLegal_iff _ _).1 hr)]
    rfl

/-! ## The step count law (R185) -/

theorem mapperRun_cons (p : ConfigRegs) (d : Direction) (b isMatch : Bool) (bs : List Bool) (st next : Word)
    (h : mapperStep p st b d = .ok (next, isMatch)) : mapperRun p d (b :: bs) st = mapperRun p d bs next := by
  rw [mapperRun, h]

/-- A run that succeeds goes on from the state it reached. -/
theorem mapperRun_append (p : ConfigRegs) (d : Direction) (bs cs : List Bool) (st mid : Word)
    (h : mapperRun p d bs st = .ok mid) : mapperRun p d (bs ++ cs) st = mapperRun p d cs mid := by
  induction bs generalizing st with
  | nil => cases h; rfl
  | cons b bs ih =>
    cases hstep : mapperStep p st b d with
    | error e => rw [mapperRun, hstep] at h; cases h
    | ok r =>
      rw [mapperRun_cons p d b r.2 bs st r.1 hstep] at h
      rw [List.cons_append, mapperRun_cons p d b r.2 (bs ++ cs) st r.1 hstep, ih r.1 h]

/-- From every state in range a step in direction d stays in range, and a step in direction e leads back, whatever the
two bits. -/
def StepUndone (p : ConfigRegs) (d e : Direction) : Prop :=
  ∀ (st : Word) (b c : Bool), p.InRange st →
    ∃ (next : Word) (m n : Bool), p.InRange next ∧ mapperStep p st b d = .ok (next, m) ∧
      mapperStep p next c e = .ok (st, n)

theorem forward_stepUndone (p : ConfigRegs) (hp : p.FormatLegal) : StepUndone p .forward .backward := by
  intro st b c hr
  obtain ⟨⟨g, h, hg, hgr, hh, hback⟩, _⟩ := advanceAndRevertAreInverse p st hp hr
  exact ⟨g.next, _, _, hgr, mapperStep_forward p st b g hg, hback ▸ mapperStep_backward p g.next c h hh⟩

theorem backward_stepUndone (p : ConfigRegs) (hp : p.FormatLegal) : StepUndone p .backward .forward := by
  intro st b c hr
  obtain ⟨_, g, h, hg, hgr, hh, hback⟩ := advanceAndRevertAreInverse p st hp hr
  exact ⟨g.next, _, _, hgr, mapperStep_backward p st b g hg, hback ▸ mapperStep_forward p g.next c h hh⟩

/-- The first step out is undone by the last step back, so the bits back are taken apart at their end. -/
theorem mapperRun_returns (p : ConfigRegs) (d e : Direction) (hundo : StepUndone p d e) (bs cs : List Bool) (st : Word)
    (hr : p.InRange st) (hlen : bs.length = cs.length) :
    ∃ mid : Word, mapperRun p d bs st = .ok mid ∧ mapperRun p e cs mid = .ok st := by
  induction cs using List.reverseRecOn generalizing bs st with
  | nil => exact ⟨st, by rw [List.eq_nil_of_length_eq_zero hlen]; rfl, rfl⟩
  | append_singleton cs c ih =>
    cases bs with
    | nil => simp at hlen
    | cons b bs =>
      obtain ⟨next, m, n, hnext, hout, hback⟩ := hundo st b c hr
      obtain ⟨mid, hmid, hreturn⟩ := ih bs next hnext (by simpa using hlen)
      refine ⟨mid, ?_, ?_⟩
      · rw [mapperRun_cons p d b m bs st next hout, hmid]
      · rw [mapperRun_append p e cs [c] mid next hreturn, mapperRun_cons p e c n [] next st hback]
        rfl

/-- Settles O41: each direction undoes the other (O38), so a run out and a run back of the same length cancel. -/
theorem stepCountLaw : Obligations.StepCountLaw := fun p st bs cs hp hr hlen =>
  ⟨mapperRun_returns p _ _ (forward_stepUndone p hp) bs cs st hr hlen,
    mapperRun_returns p _ _ (backward_stepUndone p hp) bs cs st hr hlen⟩

end Sys2Proof.Machine

/-! PROOFS of family 43_channel_analysis: counter, baseline, side and crossing (O42), the first crossing (O43) and a later
one (O44). The fields of a channel's step are read off the three cases of `channelStep_cases` once, and the filter's new
value is `filterStep_toInt`. -/

namespace Sys2Proof.Machine

open Sys2Proof.Spec

/-! ## Numbers of the registers -/

/-- With a legal factor and an input that fits, the register holds the value of R130, initialised or not. -/
theorem filterStep_toInt (f : FilterState) (x : Int) (a : Nat) (ha1 : 1 ≤ a) (ha2 : a ≤ 65536)
    (hx0 : -(2 ^ 31) ≤ x) (hx1 : x < 2 ^ 31) : (filterStep f x a).s.toInt = filterValue f x a := by
  obtain ⟨_, hfirst, hlater⟩ := filterStepStaysBetween f x a ha1 ha2 hx0 hx1
  cases h : f.init with
  | false => rw [hfirst h, filterValue_of_not_init f x a h]
  | true => rw [(hlater h).1, filterValue_of_init f x a h]

theorem baseStep_toInt (p : ConfigRegs) (c : Channel) (s : Sample) (ha1 : 1 ≤ p.aBase.toNat) (ha2 : p.aBase.toNat ≤ 65536) :
    (baseStep p c s).s.toInt = filterValue c.base (s.toInt * 65536) p.aBase.toNat := by
  obtain ⟨hx0, hx1⟩ := scaledSample_fits s
  exact filterStep_toInt c.base (scaledSample s) _ ha1 ha2 hx0 hx1

theorem preCross_cnt_toNat (p : ConfigRegs) (c : Channel) (s : Sample) : (preCross p c s).cnt.toNat = counted c :=
  satInc_toNat c.cnt

theorem counted_pos (c : Channel) : 1 ≤ counted c := by
  unfold counted; omega

theorem pitchInput_eq (p : ConfigRegs) (f w : Nat) (hf : 1 ≤ f) (hw : 1 ≤ w) :
    pitchInput p f w = min (p.sr.toNat * 65536 / (2 * f * w)) (2 ^ 31 - 1) := by
  have hpos : 0 < 2 * f * w := Nat.mul_pos (by omega) hw
  rw [pitchInput, floorDiv_pos _ _ hpos]
  rfl

theorem speedRef_eq (pitch : FilterState) :
    speedRef pitch = if pitch.init = true ∧ pitch.s ≠ 0#32 then pitch.s.toInt else 65536 := by
  simp only [speedRef, Bool.and_eq_true, decide_eq_true_eq]

theorem bitDecision_iff (p : ConfigRegs) (f w : Nat) (ref : Int) :
    bitDecision p f w ref = true ↔ (w : Int) * 2 * f * ref > (p.bitThr.toNat : Int) * p.sr.toNat :=
  decide_eq_true_iff

/-! ## The fields of a channel's step -/

section
variable (p : ConfigRegs) (f : Nat) (c : Channel) (s : Sample)

/-- The flag reports the change of side (R206). -/
@[simp] theorem channelStep_xing : (channelStep p f c s).xing = crossing c.side (sideStep p c s) := by
  rcases channelStep_cases p f c s with ⟨hx, _, h⟩ | ⟨hx, _, h⟩ | ⟨hx, h⟩
  all_goals rw [h, hx]; rfl

/-- Baseline and side do not depend on how the crossing is treated (R203, R205). -/
theorem channelStep_base_side :
    (channelStep p f c s).ch.base = baseStep p c s ∧ (channelStep p f c s).ch.side = sideStep p c s := by
  rcases channelStep_cases p f c s with ⟨_, _, h⟩ | ⟨_, _, h⟩ | ⟨_, h⟩
  · rw [h]; exact ⟨rfl, rfl⟩
  · rw [h]; exact ⟨rfl, rfl⟩
  · rw [h, noCross_ch]; exact ⟨rfl, rfl⟩

/-- R213: a crossing restarts the counter and hands its value on as the age of the previous one. -/
theorem channelStep_bookkeeping_of_crossing (hx : crossing c.side (sideStep p c s) = true) :
    let o := channelStep p f c s
    o.hadx = c.havex ∧ o.ch.havex = true ∧ o.ch.cnt = 0#32 ∧ o.agePrev = (preCross p c s).cnt := by
  cases hh : c.havex with
  | false => rw [channelStep_first p f c s hx hh]; exact ⟨rfl, rfl, rfl, rfl⟩
  | true => rw [channelStep_again p f c s hx hh]; exact ⟨rfl, rfl, rfl, rfl⟩

/-- A sample with no crossing keeps the count, the width and the had-crossing flag, and gives no bit. -/
theorem channelStep_of_not_crossing (hx : crossing c.side (sideStep p c s) = false) :
    let o := channelStep p f c s
    (o.hadx = c.havex ∧ o.ch.havex = c.havex ∧ o.ch.cnt = (preCross p c s).cnt ∧ o.agePrev = 0#32) ∧
    o.hasBit = false ∧ o.bit = false ∧ o.ch.pw = c.pw := by
  rw [channelStep_none p f c s hx]
  dsimp only
  rw [noCross_ch]
  exact ⟨⟨rfl, rfl, rfl, rfl⟩, rfl, rfl, rfl⟩

end

/-- R204 and R205 in plain numbers: the two thresholds stand HYST * 2^16 above and below the updated baseline. -/
theorem sideStep_eq (p : ConfigRegs) (c : Channel) (s : Sample) (ha1 : 1 ≤ p.aBase.toNat) (ha2 : p.aBase.toNat ≤ 65536) :
    sideStep p c s =
      if s.toInt * 65536 > filterValue c.base (s.toInt * 65536) p.aBase.toNat + (p.hyst.toNat : Int) * 65536 then .above
      else if s.toInt * 65536 < filterValue c.base (s.toInt * 65536) p.aBase.toNat - (p.hyst.toNat : Int) * 65536 then .below
      else c.side := by
  rw [← baseStep_toInt p c s ha1 ha2]
  rfl

/-! ## The family's statements -/

/-- Settles O42: baseline, side and flag are the same in every case; the bookkeeping differs by whether there is a
crossing. -/
theorem channelSideAndCrossing : Obligations.ChannelSideAndCrossing := by
  intro p f c smp ha1 ha2 o x base
  obtain ⟨hbase, hside⟩ := channelStep_base_side p f c smp
  have hflag : o.xing = crossing c.side o.ch.side := by rw [hside, channelStep_xing]
  have hbook : o.hadx = c.havex ∧ o.ch.havex = (c.havex || o.xing) ∧
      o.ch.cnt.toNat = (if o.xing then 0 else counted c) ∧ o.agePrev.toNat = (if o.xing then counted c else 0) := by
    cases hx : crossing c.side (sideStep p c smp) with
    | false =>
      obtain ⟨⟨hhadx, hhavex, hcnt, hage⟩, _⟩ := channelStep_of_not_crossing p f c smp hx
      simp [o, hx, hhadx, hhavex, hcnt, hage, preCross_cnt_toNat]
    | true =>
      obtain ⟨hhadx, hhavex, hcnt, hage⟩ := channelStep_bookkeeping_of_crossing p f c smp hx
      simp [o, hx, hhadx, hhavex, hcnt, hage, preCross_cnt_toNat]
  refine ⟨?_, ?_, ?_, ?_, hbook⟩
  · rw [hbase]; exact filterStep_init ..
  · rw [hbase]; exact baseStep_toInt p c smp ha1 ha2
  · rw [hside]; exact sideStep_eq p c smp ha1 ha2
  · rw [hflag]; exact crossing_iff ..

/-- Settles O43: the cases of `channelStep` without a previous crossing and without a crossing. -/
theorem firstCrossingGivesNoBit : Obligations.FirstCrossingGivesNoBit := by
  intro p f c smp o
  refine ⟨fun hx hh => ?_, fun hx => ?_⟩
  · have ho : o = crossFirst (preCross p c smp) := channelStep_first p f c smp (by rwa [← channelStep_xing p f]) hh
    rw [ho]
    exact ⟨rfl, rfl, rfl, rfl, rfl, rfl⟩
  · obtain ⟨⟨_, hhavex, _⟩, hhasBit, hbit, hpw⟩ :=
      channelStep_of_not_crossing p f c smp (by rwa [← channelStep_xing p f])
    exact ⟨hhasBit, hbit, hpw, hhavex⟩

/-- Settles O44: the width is the incremented counter, at least 1, so the rate ratio's divisor is not 0; the limit
2^31 - 1 lets the ratio fit the pitch register. -/
theorem laterCrossingGivesWidthBitPitch : Obligations.LaterCrossingGivesWidthBitPitch := by
  intro p f c smp hf ha1 ha2 o w ref r hx hh
  have ho : o = crossAgain p f (preCross p c smp) := channelStep_again p f c smp (by rwa [← channelStep_xing p f]) hh
  have hw : (preCross p c smp).cnt.toNat = w := preCross_cnt_toNat p c smp
  have hw1 : 1 ≤ w := counted_pos c
  have hpitch : o.ch.pitch = filterStep c.pitch r p.aPitch.toNat := by
    rw [ho, crossAgain, hw, pitchInput_eq p f w hf hw1]
    rfl
  have hbit : o.bit = bitDecision p f w ref := by
    rw [ho, crossAgain, hw, speedRef_eq]
    rfl
  have hr : r ≤ 2 ^ 31 - 1 := Nat.min_le_right _ _
  clear_value r
  refine ⟨hw1, ?_, ?_, ?_, ?_⟩
  · rw [ho]; exact hw
  · rw [ho]; rfl
  · rw [hbit]; exact bitDecision_iff ..
  · rw [hpitch]
    exact ⟨filterStep_init .., filterStep_toInt _ _ _ ha1 ha2 (by omega) (by omega),
      fun h0 => filterStep_nonneg _ _ _ h0 (by omega) (by omega) ha1 ha2⟩

end Sys2Proof.Machine

/-! PROOFS of family 44_decoder: the phase analyzer (O46), the mapper feed (O47), the sync status (O48) and the result
fields of DEC_SAMPLE (O50). Feeding a bit is described once for both directions (`BitFed`); what differs between them is
the mapper step, the shift into the window and the state a full window stands for. -/

namespace Sys2Proof.Machine

open Sys2Proof.Spec

/-! ## Phase analyzer (R241 to R243) -/

section
variable (p : ConfigRegs) (old : Direction) (a b : ChannelOut)

theorem phaseStep_both (ha : a.xing = true) (hb : b.xing = true) : phaseStep p old a b = .stopped := by
  rw [phaseStep, ha, hb]

theorem phaseStep_onlyA (ha : a.xing = true) (hb : b.xing = false) : phaseStep p old a b = dirFromA a b := by
  rw [phaseStep, ha, hb]

theorem phaseStep_onlyB (ha : a.xing = false) (hb : b.xing = true) : phaseStep p old a b = dirFromB a b := by
  rw [phaseStep, ha, hb]

theorem phaseStep_neither (ha : a.xing = false) (hb : b.xing = false) : phaseStep p old a b = dirIdle p old a b := by
  rw [phaseStep, ha, hb]

theorem dirFromA_of_reliable (h : Reliable a b) :
    dirFromA a b = if b.ch.side ≠ a.ch.side then .forward else .backward := if_pos ((reliable_iff a b).2 h)

theorem dirFromA_of_not_reliable (h : ¬ Reliable a b) : dirFromA a b = .stopped := if_neg (mt (reliable_iff a b).1 h)

theorem dirFromB_of_reliable (h : Reliable b a) :
    dirFromB a b = if a.ch.side ≠ b.ch.side then .backward else .forward := if_pos ((reliable_iff b a).2 h)

theorem dirFromB_of_not_reliable (h : ¬ Reliable b a) : dirFromB a b = .stopped := if_neg (mt (reliable_iff b a).1 h)

end

/-- Settles O46: which channel crossed selects the rule, reliability and the two sides select the direction in it. -/
theorem phaseAnalyzerSelectsDirection : Obligations.PhaseAnalyzerSelectsDirection := by
  intro p old a b
  refine ⟨phaseStep_both p old a b, fun ha hb => ?_, fun ha hb => ?_, fun ha hb => ?_⟩
  · rw [phaseStep_onlyA p old a b ha hb]
    exact ⟨fun h hside => (dirFromA_of_reliable a b h).trans (if_pos hside),
      fun h hside => (dirFromA_of_reliable a b h).trans (if_neg (not_not_intro hside)), dirFromA_of_not_reliable a b⟩
  · rw [phaseStep_onlyB p old a b ha hb]
    exact ⟨fun h hside => (dirFromB_of_reliable a b h).trans (if_pos hside),
      fun h hside => (dirFromB_of_reliable a b h).trans (if_neg (not_not_intro hside)), dirFromB_of_not_reliable a b⟩
  · rw [phaseStep_neither p old a b ha hb]
    exact ⟨fun h0 h1 => if_pos ⟨h0, h1⟩, fun h => if_neg (by omega)⟩

/-! ## Mapper feed (R244) -/

/-- RCNT holds the count: a legal width is at most 32, and the register has 6 bits. -/
theorem nextCount_toNat (p : ConfigRegs) (m : Mapper) (d : Direction) (hp : p.FormatLegal) :
    (BitVec.ofNat 6 (nextCount p m d)).toNat = nextCount p m d := by
  obtain ⟨_, hw2⟩ := formatLegal_width p hp
  have hle : nextCount p m d ≤ p.width.toNat := Nat.min_le_right _ _
  rw [BitVec.toNat_ofNat, Nat.mod_eq_of_lt (by omega)]

/-- What feeding the bit `b` in the direction `d` leaves, given the mapper step's new position and MATCH. -/
structure BitFed (p : ConfigRegs) (m : Mapper) (tracking : Bool) (d : Direction) (b : Bool) (next : Word) (isMatch : Bool)
    (f : FeedOut) : Prop where
  fed : f.fed = true
  stepped : f.stepped = true
  direction : f.map.rdir = d
  window : f.map.r = shiftIn p d m.r b
  count : f.map.rcnt.toNat = nextCount p m d
  matched : f.isMatch = isMatch
  reloaded_iff : f.reloaded = true ↔
    f.isMatch = false ∧ tracking = false ∧ f.map.rcnt.toNat = p.width.toNat ∧ f.map.r ≠ 0#32
  reload : f.reloaded = true → windowState p d f.map.r = .ok f.map.s
  step : f.reloaded = false → f.map.s = next

/-- Once the mapper steps, feeding the bit does not fail: a window that is reloaded from is not zero, so the state it
stands for exists. -/
theorem feedBit_bitFed (p : ConfigRegs) (m : Mapper) (tracking : Bool) (d : Direction) (b : Bool) (next : Word)
    (isMatch : Bool) (hp : p.FormatLegal) (hr : m.r.toNat < 2 ^ p.width.toNat)
    (hstep : mapperStep p m.s b d = .ok (next, isMatch)) :
    ∃ f, feedBit p m tracking d b = .ok f ∧ BitFed p m tracking d b next isMatch f := by
  have hcount := nextCount_toNat p m d hp
  have hwhen : reloads isMatch tracking (decide (nextCount p m d = p.width.toNat)) (shiftIn p d m.r b) = true ↔
      isMatch = false ∧ tracking = false ∧ (BitVec.ofNat 6 (nextCount p m d)).toNat = p.width.toNat ∧
        shiftIn p d m.r b ≠ 0#32 := by
    rw [reloads_iff, decide_eq_true_iff, hcount]
  cases hl : reloads isMatch tracking (decide (nextCount p m d = p.width.toNat)) (shiftIn p d m.r b) with
  | false =>
    rw [hl] at hwhen
    exact ⟨_, feedBit_step p m tracking d b next isMatch hstep hl, rfl, rfl, rfl, rfl, hcount, rfl, hwhen, nofun,
      fun _ => rfl⟩
  | true =>
    rw [hl] at hwhen
    obtain ⟨_, _, _, hne⟩ := hwhen.1 rfl
    obtain ⟨st, hload, _⟩ := windowState_inRange p d _ hp ⟨(ne_zero_iff_pos _).1 hne, shiftIn_lt p d m.r b hp hr⟩
    exact ⟨_, feedBit_reload p m tracking d b next st isMatch hstep hl hload, rfl, rfl, rfl, rfl, hcount, rfl, hwhen,
      fun _ => hload, nofun⟩

/-- A decided bit of channel A is fed while DIR is not STOPPED. -/
theorem mapperFeed_of_bit (p : ConfigRegs) (m : Mapper) (tracking : Bool) (d : Direction) (o : ChannelOut)
    (hd : d ≠ .stopped) (hx : o.xing = true) (hb : o.hasBit = true) :
    mapperFeed p m tracking d o = feedBit p m tracking d o.bit := by
  rcases mapperFeed_cases p m tracking d o with ⟨h, _⟩ | ⟨_, h, _⟩ | ⟨_, _, h⟩
  · simp [hx, hb] at h
  · exact absurd h hd
  · exact h

/-- A decided bit of channel A while DIR is STOPPED restarts the window and steps nothing. -/
theorem mapperFeed_of_bit_stopped (p : ConfigRegs) (m : Mapper) (tracking : Bool) (o : ChannelOut) (hx : o.xing = true)
    (hb : o.hasBit = true) :
    mapperFeed p m tracking .stopped o = .ok ⟨{ m with rcnt := 0#6, rdir := .stopped }, true, false, false, false⟩ := by
  rcases mapperFeed_cases p m tracking .stopped o with ⟨h, _⟩ | ⟨_, _, h⟩ | ⟨_, h, _⟩
  · simp [hx, hb] at h
  · exact h
  · exact absurd rfl h

theorem mapperFeed_of_no_bit (p : ConfigRegs) (m : Mapper) (tracking : Bool) (d : Direction) (o : ChannelOut)
    (h : ¬ (o.xing = true ∧ o.hasBit = true)) : mapperFeed p m tracking d o = .ok ⟨m, false, false, false, false⟩ :=
  if_neg (by rwa [Bool.and_eq_true])

/-- Settles O47: the mapper step is Advance or Revert as numbers, and `BitFed` says the rest for both directions. -/
theorem mapperFeedStepsOrReloads : Obligations.MapperFeedStepsOrReloads := by
  intro p m tracking o hp hs hr _
  obtain ⟨hw1, hw2⟩ := formatLegal_width p hp
  refine ⟨fun d h => mapperFeed_of_no_bit p m tracking d o h, mapperFeed_of_bit_stopped p m tracking o,
    fun hx hb => ?_, fun hx hb => ?_⟩
  · have hstep := mapperStep_forward p m.s o.bit _ (advance_eq_numbers p m.s hp hs)
    obtain ⟨f, hfeed, hf⟩ := feedBit_bitFed p m tracking .forward o.bit _ _ hp hr hstep
    refine ⟨f, (mapperFeed_of_bit p m tracking .forward o nofun hx hb).trans hfeed, hf.fed, hf.stepped,
      hf.direction, ?_, hf.count, ?_, hf.reloaded_iff, ?_⟩
    · rw [hf.window]
      exact shiftRight_insert_toNat m.r _ o.bit hw1 hw2 hr
    · rw [hf.matched, Bool.beq_eq_decide_eq]
    · cases hl : f.reloaded with
      | false => exact hf.step hl
      | true =>
        have hload := hf.reload hl
        injection hload with hload
        exact hload.symm
  · have hstep := mapperStep_backward p m.s o.bit _ (revert_eq_numbers p m.s hp hs)
    obtain ⟨f, hfeed, hf⟩ := feedBit_bitFed p m tracking .backward o.bit _ _ hp hr hstep
    refine ⟨f, (mapperFeed_of_bit p m tracking .backward o nofun hx hb).trans hfeed, hf.fed, hf.stepped,
      hf.direction, ?_, hf.count, ?_, hf.reloaded_iff, hf.reload, hf.step⟩
    · rw [hf.window]
      exact shiftLeft_insert_toNat m.r _ o.bit hw1 hw2
    · rw [hf.matched, Bool.beq_eq_decide_eq]
      rfl

/-! ## Sync status (R245) -/

theorem syncStep_not_fed (p : ConfigRegs) (y : Sync) (f : FeedOut) (h : f.fed = false) : syncStep p y f = y := by
  rw [syncStep, h, if_neg Bool.false_ne_true]

theorem syncStep_fed (p : ConfigRegs) (y : Sync) (f : FeedOut) (h : f.fed = true) :
    syncStep p y f = syncUpdate p y f.map.s f.isMatch := by
  rw [syncStep, h, if_pos rfl]

/-- Settles O48: a bit is good when it matched and left a valid position (`syncUpdate_good`, `syncUpdate_bad`). -/
theorem syncUpdateCountsGoodBits : Obligations.SyncUpdateCountsGoodBits := by
  refine fun p y f => ⟨syncStep_not_fed p y f, fun hfed hmatch hvalid => ?_, fun hfed hbad => ?_⟩
  · have hrun : (satInc y.run).toNat = min (y.run.toNat + 1) 255 := satInc_toNat y.run
    rw [syncStep_fed p y f hfed, hmatch, syncUpdate_good p y _ ((isValid_iff p _).2 hvalid)]
    dsimp only
    rw [hrun, Bool.or_eq_true, decide_eq_true_iff]
    exact ⟨rfl, rfl, Iff.rfl⟩
  · have hnotGood : (f.isMatch && isValid p f.map.s) = false := by
      rw [Bool.and_eq_false_iff, isValid, decide_eq_false_iff_not, Nat.not_lt]
      exact hbad
    rw [syncStep_fed p y f hfed, syncUpdate_bad p y _ _ hnotGood]

/-! ## The results of DEC_SAMPLE (R240, R246) -/

/-- The fields of a frame's RES1, read off its value as a number. -/
theorem decResultWord_fields (xa ha ba xb hb bb t v st m r : Bool) (d : Direction) :
    let w := decResultWord (xingBits xa ha ba) (xingBits xb hb bb) d t v st m r
    w.getLsbD 0 = xa ∧ w.getLsbD 1 = ha ∧ w.getLsbD 2 = ba ∧ w.getLsbD 3 = xb ∧ w.getLsbD 4 = hb ∧ w.getLsbD 5 = bb ∧
    w.extractLsb' 6 2 = d.code ∧ w.getLsbD 8 = t ∧ w.getLsbD 9 = v ∧ w.getLsbD 10 = st ∧ w.getLsbD 11 = m ∧
    w.getLsbD 12 = r ∧ w.extractLsb' 13 19 = 0#19 := by
  have hw := decResultWord_toNat (xingBits xa ha ba) (xingBits xb hb bb) d t v st m r
  rw [xingBits_toNat, xingBits_toNat] at hw
  have hxa := xa.toNat_le
  have hha := ha.toNat_le
  have hba := ba.toNat_le
  have hxb := xb.toNat_le
  have hhb := hb.toNat_le
  have hbb := bb.toNat_le
  have hd := direction_code_lt d
  have ht := t.toNat_le
  have hv := v.toNat_le
  have hst := st.toNat_le
  have hm := m.toNat_le
  have hr := r.toNat_le
  have hfield : (0#19).toNat = 0 := rfl
  refine ⟨getLsbD_eq_of_toNat _ _ _ ?_, getLsbD_eq_of_toNat _ _ _ ?_, getLsbD_eq_of_toNat _ _ _ ?_,
    getLsbD_eq_of_toNat _ _ _ ?_, getLsbD_eq_of_toNat _ _ _ ?_, getLsbD_eq_of_toNat _ _ _ ?_,
    extract_eq_of_toNat _ _ _ ?_, getLsbD_eq_of_toNat _ _ _ ?_, getLsbD_eq_of_toNat _ _ _ ?_,
    getLsbD_eq_of_toNat _ _ _ ?_, getLsbD_eq_of_toNat _ _ _ ?_, getLsbD_eq_of_toNat _ _ _ ?_,
    extract_eq_of_toNat _ _ _ ?_⟩
  all_goals omega

/-- A channel's step reports a bit of 0 when it decided none (R207, R209). -/
theorem channelStep_hasBit_and_bit (p : ConfigRegs) (f : Nat) (c : Channel) (s : Sample) :
    ((channelStep p f c s).hasBit && (channelStep p f c s).bit) = (channelStep p f c s).bit := by
  rcases channelStep_cases p f c s with ⟨_, _, h⟩ | ⟨_, _, h⟩ | ⟨_, h⟩
  all_goals rw [h]; rfl

/-- The mean of two 32-bit values fits 32 bits (R42). -/
theorem speed_toInt (c0 c1 : Channel) : (speed c0 c1).toInt = meanPitch c0 c1 := by
  have h0 := word_toInt_fits c0.pitch.s
  have h1 := word_toInt_fits c1.pitch.s
  exact toInt_ofInt_of_fits _ (by omega) (by omega)

/-- From a ready state DEC_SAMPLE completes: its gate is open and the mapper feed does not fail. -/
theorem exec_decSample_ready (s : State) (a b : Sample) (h : Ready s) :
    ∃ f, frameFeed s a b = .ok f ∧ exec (.decSample a b) s = .next (succeed (frameDone s a b f)) := by
  obtain ⟨hmap, _⟩ := ready_sessions s h
  obtain ⟨f, hfeed, _⟩ : ∃ f, frameFeed s a b = .ok f ∧ f.map.InRange s.act :=
    mapperFeed_inRange s.act s.map s.sync.tracking _ _ (ready_legal s h).1 hmap
  obtain ⟨hconf, _, hfault, _⟩ := h
  refine ⟨f, hfeed, ?_⟩
  rw [exec_of_gated_body (.decSample a b) s _ nofun hconf hfault rfl, decodeFrame, hfeed, commit_ok]

/-- Settles O50: RES1 is `decResultWord` of the frame's stages, field by field. -/
theorem decSampleResultFields : Obligations.DecSampleResultFields := by
  intro s a b h oa ob
  obtain ⟨f, hfeed, hexec⟩ := exec_decSample_ready s a b h
  have hbitA : (oa.hasBit && oa.bit) = oa.bit := channelStep_hasBit_and_bit ..
  have hbitB : (ob.hasBit && ob.bit) = ob.bit := channelStep_hasBit_and_bit ..
  rw [hbitA, hbitB]
  obtain ⟨hxa, hha, hba, hxb, hhb, hbb, hdir, htrack, hvalid, hstepped, hmatch, hreloaded, hhigh⟩ :=
    decResultWord_fields oa.xing oa.hasBit oa.bit ob.xing ob.hasBit ob.bit (syncStep s.act s.sync f).tracking
      (isValid s.act f.map.s) f.stepped f.isMatch f.reloaded (frameDir s a b)
  exact ⟨f, succeed (frameDone s a b f), hfeed, hexec, rfl, hxa, hha, hba, hxb, hhb, hbb, hdir, htrack, hvalid, hstepped,
    hmatch, hreloaded, hhigh, speed_toInt oa.ch ob.ch⟩

end Sys2Proof.Machine

/-! PROOFS of family 45_synthesizer: ENC_LOAD (O52), ENC_SAMPLE (O53) and the triangle wave (O54). ENC_SAMPLE rests on
`encMove_eq_numbers`, the encoder's move as the spec's numbers; the wave rests on `triArg_neg` and `triArg_natAbs_le`, since
Tri keeps the sign of its argument and scales its size by AMP / 2^30. -/

namespace Sys2Proof.Machine

open Sys2Proof.Spec

/-! ## The triangle wave (R282) -/

theorem triArg_natAbs_le (ph : Word) : (triArg ph).natAbs ≤ 2 ^ 30 := by
  have hph := ph.isLt
  unfold triArg
  split
  · omega
  · split
    · omega
    · omega

/-- Negating the phase exchanges the rising quarters about 0 and mirrors the falling half about 2^31. -/
theorem triArg_neg (ph : Word) : triArg (-ph) = -triArg ph := by
  have hph := ph.isLt
  unfold triArg
  rw [BitVec.toNat_neg]
  split <;> split <;> omega

theorem tri_eq_sign_mul_div (ph : Word) (amp : Nat) :
    tri ph amp = (triArg ph).sign * ((triArg ph).natAbs * amp / 2 ^ 30 : Nat) := by
  rw [tri, floorDiv_pos _ _ (Nat.two_pow_pos 30)]

theorem tri_natAbs_le (ph : Word) (amp : Nat) : (tri ph amp).natAbs ≤ amp := by
  have hsign : (triArg ph).sign.natAbs ≤ 1 := by
    rw [Int.natAbs_sign]; split <;> decide
  have hdiv : (triArg ph).natAbs * amp / 2 ^ 30 ≤ amp :=
    Nat.div_le_of_le_mul (Nat.mul_le_mul_right amp (triArg_natAbs_le ph))
  rw [tri_eq_sign_mul_div, Int.natAbs_mul, Int.natAbs_natCast]
  exact (Nat.mul_le_mul hsign hdiv).trans_eq (Nat.one_mul amp)

theorem tri_neg (ph : Word) (amp : Nat) : tri (-ph) amp = -tri ph amp := by
  rw [tri, triArg_neg, Int.sign_neg, Int.natAbs_neg, neg_mul, tri]

theorem tri_of_triArg_zero (ph : Word) (amp : Nat) (h : triArg ph = 0) : tri ph amp = 0 := by
  rw [tri, h, Int.sign_zero, zero_mul]

theorem tri_quarter (amp : Nat) : tri 0x40000000#32 amp = amp := by
  have harg : triArg 0x40000000#32 = (2 ^ 30 : Nat) := by decide
  rw [tri_eq_sign_mul_div, harg, Int.sign_natCast_of_ne_zero (by decide), one_mul, Int.natAbs_natCast,
    Nat.mul_div_cancel_left amp (Nat.two_pow_pos 30)]

/-- Settles O54: oddness about 0 gives oddness about 2^31, which is its own negative, and the last quarter. -/
theorem triangleWaveShape : Obligations.TriangleWaveShape := by
  intro ph amp hamp
  have hle := tri_natAbs_le ph amp
  have hmirror : 0x80000000#32 + ph = -(0x80000000#32 - ph) := by bv_omega
  refine ⟨tri_eq_triangle ph amp, by omega, by omega, ?_, tri_neg ph amp, ?_, tri_of_triArg_zero _ amp rfl,
    tri_of_triArg_zero _ amp rfl, tri_quarter amp, ?_⟩
  · exact BitVec.toInt_ofInt_eq_self (by decide) (by omega) (by omega)
  · rw [hmirror, tri_neg]
  · exact (tri_neg 0x40000000#32 amp).trans (congrArg Neg.neg (tri_quarter amp))

/-! ## ENC_LOAD (R281) -/

/-- Settles O52: ENC_LOAD's operand check is membership in [1, 2^W - 1]; it asks nothing of VALID. -/
theorem encLoadSeedsEncoder : Obligations.EncLoadSeedsEncoder := by
  refine ⟨fun s p hc hf hr => ?_, fun s p hc hf hr => ?_, fun p => gated_of_needsConfig _ rfl,
    fun w hopc => rejected_of_arg_or_rsv w (by rw [usesArg]; omega)⟩
  · rw [exec_of_gated_body (.encLoad p) s _ nofun hc hf rfl, if_pos ((positionLegal_iff _ _).2 hr)]
    rfl
  · rw [exec_of_gated_body (.encLoad p) s _ nofun hc hf rfl, if_neg (mt (positionLegal_iff _ _).1 hr)]
    rfl

/-! ## ENC_SAMPLE (R280) -/

theorem phase_add_eq_ofNat (ph : Word) (inc : Nat) :
    ph + BitVec.ofNat 32 inc = BitVec.ofNat 32 ((ph.toNat + inc) % 2 ^ 32) := by
  apply BitVec.eq_of_toNat_eq
  rw [BitVec.toNat_add, BitVec.toNat_ofNat, BitVec.toNat_ofNat]
  omega

theorem phase_sub_eq_ofNat (ph : Word) (inc : Nat) (h : inc < 2 ^ 32) :
    ph - BitVec.ofNat 32 inc = BitVec.ofNat 32 ((ph.toNat + 2 ^ 32 - inc) % 2 ^ 32) := by
  apply BitVec.eq_of_toNat_eq
  rw [BitVec.toNat_sub, BitVec.toNat_ofNat, BitVec.toNat_ofNat]
  omega

theorem encStride_le (s : State) : encStride s ≤ 2 ^ 30 := Nat.min_le_right _ _

/-- The encoder's move as the spec's numbers: the step of SE that a crossing asks for is Advance or Revert, by ENC_DIR. -/
theorem encMove_eq_numbers (s : State) (hl : s.act.Legal) (hr : s.act.InRange s.encSE) :
    encMove s = .ok ⟨encNextState s, encNextPhase s, encCrosses s⟩ := by
  have hstride := encStride_le s
  rw [encMove, encInc_eq_encStride s hl, encNextState, encNextPhase, encCrosses]
  cases s.encDir with
  | stopped => rfl
  | forward =>
    simp only [encForward, advance_eq_numbers s.act s.encSE hl.1 hr, phase_add_eq_ofNat]
    split
    case isTrue hx => rw [decide_eq_true hx]; rfl
    case isFalse hx => rw [decide_eq_false hx]; rfl
  | backward =>
    simp only [encBackward, revert_eq_numbers s.act s.encSE hl.1 hr, phase_sub_eq_ofNat s.encPH (encStride s) (by omega)]
    split
    case isTrue hx => rw [decide_eq_true hx]; rfl
    case isFalse hx => rw [decide_eq_false hx]; rfl

theorem encFrame_eq_ofNat (ph : Word) (amp : Nat) :
    encFrame ph amp = BitVec.ofNat 32
      (halfWord (triangle ph.toNat amp) + 65536 * halfWord (triangle ((ph.toNat + 3 * 2 ^ 30) % 2 ^ 32) amp)) :=
  eq_ofNat_of_toNat_eq _ _ (encFrame_toNat ph amp)

theorem encWord_eq_ofNat (b crossed : Bool) : encWord b crossed = BitVec.ofNat 32 (one b + 2 * one crossed) := by
  cases b <;> cases crossed <;> rfl

/-- Settles O53: past its gate ENC_SAMPLE stores the encoder's move and reports the frame, the bit and the crossing. -/
theorem encSampleEmitsFrameAndMoves : Obligations.EncSampleEmitsFrameAndMoves := by
  refine ⟨fun s h => ?_, gated_of_needsConfig _ rfl,
    fun w hopc => rejected_of_ne_opcode w 0x06 hopc (by rw [usesArg]; decide) (by rw [usesData]; decide)⟩
  obtain ⟨_, hse, _⟩ := ready_sessions s h
  have ⟨hc, _, hf, _⟩ := h
  rw [exec_of_gated_body .encSample s _ nofun hc hf rfl, encodeFrame, encMove_eq_numbers s (ready_legal s h) hse,
    ← encFrame_eq_ofNat, advanceBit_eq_feedback, ← encWord_eq_ofNat]
  rfl

end Sys2Proof.Machine

/-! PROOFS of family 46_control: CFG_WRITE (O14), READ (O15), CONFIGURE (O18) and NOP (O13). CFG_WRITE and READ rest on
`Reg.ofIndex_eq_some_iff`: an index names a register exactly when it is the register's own number in R35's table. -/

namespace Sys2Proof.Machine

open Sys2Proof.Spec

/-! ## The index space (R35) -/

/-- The place of a configuration register in its block, 0x00 + offset staged and 0x40 + offset active (R35). -/
def CfgReg.offset : CfgReg → Nat
  | .f0 => 0x0
  | .f1 => 0x1
  | .sr => 0x2
  | .width => 0x3
  | .taps => 0x4
  | .seed => 0x5
  | .valid => 0x6
  | .aBase => 0x8
  | .aPitch => 0x9
  | .hyst => 0xA
  | .bitThr => 0xB
  | .k0 => 0xC
  | .k1 => 0xD
  | .syncLen => 0xE
  | .stopTimeout => 0xF

/-- The place of a channel register in its block (R35). -/
def ChanReg.offset : ChanReg → Nat
  | .baseS => 0
  | .flags => 1
  | .cnt => 2
  | .pw => 3
  | .pitchS => 4

/-- The index of a register (R35). -/
def Reg.index : Reg → Nat
  | .staged r => r.offset
  | .encSpeed => 0x10
  | .encDir => 0x11
  | .encAmp => 0x12
  | .status => 0x20
  | .decPos => 0x21
  | .decSpeed => 0x22
  | .decT => 0x23
  | .desR => 0x24
  | .desCtrl => 0x25
  | .decRun => 0x26
  | .chan0 r => 0x30 + r.offset
  | .chan1 r => 0x38 + r.offset
  | .act r => 0x40 + r.offset
  | .act07 => 0x47
  | .encSE => 0x50
  | .encPH => 0x51
  | .tmS => 0x58
  | .tfS => 0x59
  | .tfFlags => 0x5A
  | .tfAlpha => 0x5B

theorem Reg.ofIndex_index (r : Reg) : Reg.ofIndex (BitVec.ofNat 8 r.index) = some r := by
  cases r with
  | staged c | act c => cases c <;> rfl
  | chan0 k | chan1 k => cases k <;> rfl
  | _ => rfl

/-- R35's table read row by row. -/
theorem Reg.index_of_ofIndex : ∀ i : BitVec 8, ∀ r ∈ Reg.ofIndex i, i.toNat = r.index := by decide

/-- R35's table names each register once. -/
theorem Reg.ofIndex_eq_some_iff (i : BitVec 8) (r : Reg) : Reg.ofIndex i = some r ↔ i.toNat = r.index := by
  refine ⟨Reg.index_of_ofIndex i r, fun h => ?_⟩
  rw [← Reg.ofIndex_index r, ← h, BitVec.ofNat_toNat, BitVec.setWidth_eq]

/-! ## The readable registers and their values (R35) -/

def CfgReg.all : List CfgReg :=
  [.f0, .f1, .sr, .width, .taps, .seed, .valid, .aBase, .aPitch, .hyst, .bitThr, .k0, .k1, .syncLen, .stopTimeout]

def ChanReg.all : List ChanReg := [.baseS, .flags, .cnt, .pw, .pitchS]

/-- The registers outside the configuration and channel blocks, in the order of `unitRows`. -/
def Reg.units : List Reg :=
  [.encSpeed, .encDir, .encAmp, .status, .decPos, .decSpeed, .decT, .desR, .desCtrl, .decRun, .act07, .encSE, .encPH, .tmS,
   .tfS, .tfFlags, .tfAlpha]

/-- Every register, in the order of `readRows`. -/
def Reg.all : List Reg :=
  CfgReg.all.map .staged ++ ChanReg.all.map .chan0 ++ ChanReg.all.map .chan1 ++ CfgReg.all.map .act ++ Reg.units

theorem Reg.mem_all (r : Reg) : r ∈ Reg.all := by
  cases r with
  | staged c | act c => cases c <;> decide
  | chan0 k | chan1 k => cases k <;> decide
  | _ => decide

theorem one_eq_toNat (b : Bool) : one b = b.toNat := by cases b <;> rfl

theorem statusWord_eq_ofNat (s : State) : statusWord s = BitVec.ofNat 32 (status s) := by
  refine eq_ofNat_of_toNat_eq _ _ ?_
  simp only [statusWord_toNat, status, one_eq_toNat]
  rfl

theorem chFlagsWord_eq_ofNat (c : Channel) : chFlagsWord c = BitVec.ofNat 32 (chFlags c) := by
  refine eq_ofNat_of_toNat_eq _ _ ?_
  simp only [chFlagsWord_toNat, chFlags, one_eq_toNat]

theorem tfFlagsWord_eq_ofNat (f : FilterState) : tfFlagsWord f = BitVec.ofNat 32 (one f.init) := by
  refine eq_ofNat_of_toNat_eq _ _ ?_
  rw [tfFlagsWord_toNat, one_eq_toNat]

theorem channelRows_eq_map (base : Nat) (c : Channel) :
    channelRows base c = ChanReg.all.map fun r => (base + r.offset, c.get r) := by
  rw [channelRows, ← chFlagsWord_eq_ofNat]
  rfl

theorem unitRows_eq_map (s : State) : unitRows s = Reg.units.map fun r => (r.index, readReg s r) := by
  rw [unitRows, ← statusWord_eq_ofNat, ← tfFlagsWord_eq_ofNat, ← eq_ofNat_of_toNat_eq _ _ (desCtrlWord_toNat s.map),
    ← eq_ofNat_of_toNat_eq _ _ (decRunWord_toNat s.sync), BitVec.ofNat_toNat, BitVec.ofNat_toNat]
  rfl

/-- The spec's table of values lists every register once, at its index and with the value READ samples. -/
theorem readRows_eq_map (s : State) : readRows s = Reg.all.map fun r => (r.index, readReg s r) := by
  rw [readRows, channelRows_eq_map, channelRows_eq_map, unitRows_eq_map]
  rfl

theorem mem_readRows_iff (s : State) (i : BitVec 8) (v : Word) :
    (i.toNat, v) ∈ readRows s ↔ ∃ r, Reg.ofIndex i = some r ∧ readReg s r = v := by
  simp only [readRows_eq_map, List.mem_map, Prod.mk.injEq, Reg.mem_all, true_and, Reg.ofIndex_eq_some_iff,
    @eq_comm Nat]

/-! ## READ (R311) -/

theorem exec_read_of_ofIndex_some (s : State) (i : BitVec 8) (r : Reg) (h : Reg.ofIndex i = some r) :
    exec (.read i) s = .next (succeed { s with res0 := readReg s r }) := by
  rw [exec_eq_commit (.read i) s nofun, commandBody, h]
  rfl

theorem exec_read_of_ofIndex_none (s : State) (i : BitVec 8) (h : Reg.ofIndex i = none) :
    exec (.read i) s = .next (raiseError .badIndex s) := by
  rw [exec_eq_commit (.read i) s nofun, commandBody, h]
  rfl

/-! ## CFG_WRITE (R310) -/

section
variable (s : State) (i : BitVec 8) (v : Word)

theorem exec_cfgWrite_of_ofIndex_some (r : Reg) (h : Reg.ofIndex i = some r) :
    exec (.cfgWrite i v) s = commit s (writeReg s r v) := by
  rw [exec_eq_commit (.cfgWrite i v) s nofun, commandBody, h]

theorem exec_cfgWrite_of_ofIndex_none (h : Reg.ofIndex i = none) :
    exec (.cfgWrite i v) s = .next (raiseError .badIndex s) := by
  rw [exec_eq_commit (.cfgWrite i v) s nofun, commandBody, h]
  rfl

theorem exec_cfgWrite_staged (c : CfgReg) (h : Reg.ofIndex i = some (.staged c)) :
    exec (.cfgWrite i v) s = .next (succeed { s with staged := s.staged.set c v }) :=
  exec_cfgWrite_of_ofIndex_some s i v _ h

theorem CfgReg.offset_ne_seven_and_le (c : CfgReg) : c.offset ≠ 0x07 ∧ c.offset ≤ 0x12 := by cases c <;> decide

/-- The writable registers stand at 0x00..0x06 and 0x08..0x12. -/
theorem writeReg_of_readOnly_index (r : Reg) (h : r.index = 0x07 ∨ 0x12 < r.index) :
    writeReg s r v = .error .badIndex := by
  cases r with
  | staged c =>
    have hc := c.offset_ne_seven_and_le
    rw [Reg.index] at h
    omega
  | encSpeed | encDir | encAmp => exact absurd h (by decide)
  | _ => rfl

theorem exec_cfgWrite_of_readOnly_index (h : i.toNat = 0x07 ∨ 0x12 < i.toNat) :
    exec (.cfgWrite i v) s = .next (raiseError .badIndex s) := by
  cases hr : Reg.ofIndex i with
  | none => exact exec_cfgWrite_of_ofIndex_none s i v hr
  | some r =>
    rw [(Reg.ofIndex_eq_some_iff i r).1 hr] at h
    rw [exec_cfgWrite_of_ofIndex_some s i v r hr, writeReg_of_readOnly_index s v r h, commit_error]

end

theorem legalDirection_eq_numbers (v : Word) :
    legalDirection v = if v.toNat = 1 then .forward else if v.toNat = 2 then .backward else .stopped := by
  have h1 : v = 1#32 ↔ v.toNat = 1 := BitVec.toNat_inj.symm
  have h2 : v = 2#32 ↔ v.toNat = 2 := BitVec.toNat_inj.symm
  simp only [legalDirection, h1, h2]

/-! ## The words rejected (R103) -/

theorem rejected_of_rsv (w : CmdWord) (h : rsvOf w ≠ 0) : Rejected w :=
  (legalWordsExactlyAndOthersRejected w).2 fun ⟨_, hrsv, _⟩ => h hrsv

theorem rejected_of_data (w : CmdWord) (hopc : ¬ usesData (opcOf w)) (h : dataOf w ≠ 0) : Rejected w :=
  (legalWordsExactlyAndOthersRejected w).2 fun ⟨_, _, _, hdata, _⟩ => h (hdata hopc)

/-! ## The family's statements -/

/-- Settles O14: index by index the register that R35 names is written; the other indices name none, or a read-only one. -/
theorem cfgWriteWritesOneRegister : Obligations.CfgWriteWritesOneRegister := by
  refine ⟨fun s v => ?_, fun s i v h => exec_cfgWrite_of_readOnly_index s i v h, fun w _ => rejected_of_rsv w⟩
  have hstaged := fun (i : BitVec 8) c => exec_cfgWrite_staged s i v c
  have hlive := fun (i : BitVec 8) r => exec_cfgWrite_of_ofIndex_some s i v r
  exact ⟨hstaged 0x00#8 .f0 rfl, hstaged 0x01#8 .f1 rfl, hstaged 0x02#8 .sr rfl, hstaged 0x03#8 .width rfl,
    hstaged 0x04#8 .taps rfl, hstaged 0x05#8 .seed rfl, hstaged 0x06#8 .valid rfl, hstaged 0x08#8 .aBase rfl,
    hstaged 0x09#8 .aPitch rfl, hstaged 0x0A#8 .hyst rfl, hstaged 0x0B#8 .bitThr rfl, hstaged 0x0C#8 .k0 rfl,
    hstaged 0x0D#8 .k1 rfl, hstaged 0x0E#8 .syncLen rfl, hstaged 0x0F#8 .stopTimeout rfl, hlive 0x10#8 .encSpeed rfl,
    legalDirection_eq_numbers v ▸ hlive 0x11#8 .encDir rfl, hlive 0x12#8 .encAmp rfl⟩

/-- Settles O15: `readRows` lists the value of exactly the registers that an index names. -/
theorem readReturnsEveryRegister : Obligations.ReadReturnsEveryRegister := by
  refine ⟨fun s i v hv => ?_, fun s i hno => ?_, fun w hopc h => ?_⟩
  · obtain ⟨r, hr, rfl⟩ := (mem_readRows_iff s i v).1 hv
    exact exec_read_of_ofIndex_some s i r hr
  · cases hr : Reg.ofIndex i with
    | none => exact exec_read_of_ofIndex_none s i hr
    | some r => exact absurd ((mem_readRows_iff s i _).2 ⟨r, hr, rfl⟩) (hno _)
  · exact h.elim (rejected_of_rsv w) (rejected_of_data w (by rw [hopc, usesData]; decide))

/-- Settles O18: the three answers of `configError`, the legality of the staged registers. -/
theorem configureActivatesOrClearsConfigured : Obligations.ConfigureActivatesOrClearsConfigured := by
  refine ⟨fun s hl => ?_, fun s hf => ?_, fun s hf hp => ?_,
    fun w hopc => rejected_of_ne_opcode w 0x03 hopc (by rw [usesArg]; decide) (by rw [usesData]; decide)⟩
  all_goals obtain ⟨hnone, hformat, hparams⟩ := configError_iff s.staged
  · exact exec_configure_ok s (hnone.2 hl)
  · exact exec_configure_error s _ (hformat.2 hf)
  · exact exec_configure_error s _ (hparams.2 ⟨hf, hp⟩)

/-- Settles O13: NOP's body is the state it began in, and opcode 0 has one legal word. -/
theorem nopOnlyReportsOk : Obligations.NopOnlyReportsOk :=
  ⟨fun s => exec_eq_commit .nop s nofun, decode_of_encode .nop _ rfl rfl,
    fun w hopc => rejected_of_ne_opcode w 0x00 hopc (by rw [usesArg]; decide) (by rw [usesData]; decide)⟩

end Sys2Proof.Machine

/-! PROOFS of family 60_exceptions: NOT_CONFIGURED (O19) and that a failing command is all or nothing (O22). Both read a
command's answer off `exec_cases`; O19 rests on the codes that the commands outside the gate can report. -/

namespace Sys2Proof.Machine

open Sys2Proof.Spec

/-! ## The codes of the commands outside the gate (R340, R345) -/

theorem writeReg_error_code (s : State) (r : Reg) (v : Word) (e : ErrCode) (h : writeReg s r v = .error e) :
    e = .badIndex := by
  cases r <;> cases h <;> rfl

/-- What LAST_ERR holds after a command: OK, or the code its computation stopped with. -/
theorem exec_lastErr (i : Instr) (s t : State) (h : exec i s = .next t) :
    t.lastErr = .ok ∨ commandBody i s = .error t.lastErr := by
  rcases exec_cases i s t h with ⟨u, _, rfl⟩ | ⟨_, e, he, rfl⟩ | ⟨rfl, e, he, rfl⟩
  · exact .inl rfl
  · exact .inr he
  · exact .inr (by simp only [commandBody, he, raiseError_lastErr])

/-- A command that does not need the configuration fails only with a code R340 lists for it. -/
theorem commandBody_error_mem_codesOf_of_ungated (i : Instr) (s : State) (e : ErrCode) (hwf : i.wellFormed = true)
    (hi : needsConfig i = false) (h : commandBody i s = .error e) : e ∈ codesOf i := by
  cases i with
  | nop | tfUpdate | tfPreview => cases h
  | cfgWrite index value =>
    simp only [commandBody] at h
    cases hr : Reg.ofIndex index with
    | none => rw [hr] at h; cases h; simp [codesOf]
    | some r => rw [hr] at h; rw [writeReg_error_code s r value e h]; simp [codesOf]
  | read index =>
    simp only [commandBody] at h
    cases hr : Reg.ofIndex index with
    | none => rw [hr] at h; cases h; simp [codesOf]
    | some r => rw [hr] at h; cases h
  | configure =>
    simp only [commandBody] at h
    cases hc : configError s.staged with
    | none => rw [hc] at h; cases h
    | some e' =>
      rw [hc] at h
      cases h
      rcases configError_code _ _ hc with rfl | rfl <;> simp [codesOf]
  | tfConfig alpha =>
    simp only [commandBody] at h
    split at h <;> cases h
    simp [codesOf]
  | tmBit b d => exact absurd (hwf.symm.trans hi) nofun
  | decSample | mapLoad | encSample | encLoad | tmLoad | tmAdvance | tmRevert | tmPeekNext | tmPeekPrev => cases hi

/-- The column "raised by" of R340 lists NOT_CONFIGURED for no well-formed command outside the gate. -/
theorem notConfigured_not_mem_codesOf (i : Instr) (hwf : i.wellFormed = true) (hi : needsConfig i = false) :
    .notConfigured ∉ codesOf i := by
  cases i with
  | tmBit b d => exact absurd (hwf.symm.trans hi) nofun
  | decSample | mapLoad | encSample | encLoad | tmLoad | tmAdvance | tmRevert | tmPeekNext | tmPeekPrev => cases hi
  | nop | cfgWrite | read | configure | tfConfig | tfUpdate | tfPreview => simp [codesOf]

/-- Settles O19: the gate answers for the commands that need the configuration, and no other command's code is
NOT_CONFIGURED. -/
theorem notConfiguredGatesSessions : Obligations.NotConfiguredGatesSessions := by
  refine fun i s hwf hc => ⟨fun hi => (gated_of_needsConfig i hi s).1 hc, fun hi => ?_⟩
  obtain ⟨t, ht⟩ := exec_answers i s
  refine ⟨t, ht, fun hcode => ?_⟩
  rcases exec_lastErr i s t ht with hok | herr
  · rw [hok] at hcode; cases hcode
  · rw [hcode] at herr
    exact notConfigured_not_mem_codesOf i hwf hi (commandBody_error_mem_codesOf_of_ungated i s _ hwf hi herr)

/-! ## All or nothing (R342) -/

theorem raiseError_eq (e : ErrCode) (s : State) :
    raiseError e s = { s with lastErr := e, fault := s.fault || decide (e = .lfsrZero) } := by
  rw [raiseError, Bool.or_comm, beq_eq_decide]

/-- CONFIGURE never reports LFSR_ZERO, so its failure leaves FAULT alone. -/
theorem raiseError_of_configError (s u : State) (e : ErrCode) (h : configError s.staged = some e) :
    raiseError e u = { u with lastErr := e } := by
  rcases configError_code _ e h with rfl | rfl <;> rfl

/-- Settles O22: of the three answers a command has (`exec_cases`), a failure is an error's report alone, on the state the
command began in or, for CONFIGURE, on that state with CONFIGURED cleared. -/
theorem failingCommandIsAllOrNothing : Obligations.FailingCommandIsAllOrNothing := by
  refine ⟨fun i s t ht hfail => ?_, rejected_of_decode_error⟩
  rcases exec_cases i s t ht with ⟨u, _, rfl⟩ | ⟨hi, e, _, rfl⟩ | ⟨rfl, e, he, rfl⟩
  · exact absurd rfl hfail
  · exact ⟨fun _ => raiseError_eq e s, fun hconf => absurd hconf hi⟩
  · exact ⟨fun hne => absurd rfl hne, fun _ => raiseError_of_configError s _ e he⟩

end Sys2Proof.Machine

/-! PROOFS of family 70_reset_and_hazards.md+other, the words and the step: decoding and encoding (O1, O2, O5), the byte
link (O7) and what a step does with an event (O8, O9, O12). All of it is read off `decode_ok_iff` and the laws of
`step`. -/

namespace Sys2Proof.Machine

open Sys2Proof.Spec

/-! ## Decoding and encoding (R100 to R103) -/

/-- Settles O1: the word of a well-formed command has the command's fields, and these decide what it decodes to. -/
theorem decodeOfEncodeIsIdentity : Obligations.DecodeOfEncodeIsIdentity :=
  fun i hwf => decode_of_encode i (encode i) hwf rfl

/-- Settles O2: the other direction of `decode_ok_iff`. -/
theorem encodeOfDecodeIsIdentity : Obligations.EncodeOfDecodeIsIdentity := fun w i => encode_of_decode i w

/-- ARG and DATA of a word are the fields of the command it decodes to. -/
theorem operandFields_of_decode (w : CmdWord) (i : Instr) (h : decode w = .ok i) :
    i.argField.toNat = argOf w ∧ i.dataField.toNat = dataOf w := by
  obtain ⟨_, henc⟩ := encode_of_decode i w h
  obtain ⟨_, _, harg, hdata⟩ := (encode_eq_iff i w).1 henc
  exact ⟨by rw [← harg, arg_toNat, argOf], by rw [← hdata, data_toNat, dataOf]⟩

theorem tmBit_argField_toNat (b : Bool) (d : Direction) :
    (Instr.tmBit b d).argField.toNat = one b + 2 * d.code.toNat := by
  cases b <;> cases d <;> rfl

/-- Settles O5: each operand is ARG or DATA whole, but for the halves of a frame and the two fields of TM_BIT's ARG. -/
theorem operandsAreTheirFields : Obligations.OperandsAreTheirFields := by
  intro w
  have hfields := operandFields_of_decode w
  refine ⟨fun i v h => hfields _ h, fun i h => (hfields _ h).1, fun a b h => ?_, fun v h => ?_, fun b d h => ?_⟩
  · have hdata : (frameData a b).toNat = dataOf w := (hfields _ h).2
    have ha := a.isLt
    rw [frameData_toNat] at hdata
    omega
  · rcases h with h | h | h | h | h | h
    all_goals exact (hfields _ h).2
  · have harg := (hfields _ h).1
    have hone : one b ≤ 1 := by cases b <;> decide
    have hcode := direction_code_lt d
    rw [tmBit_argField_toNat] at harg
    omega

/-! ## The byte link (R85) -/

theorem decodeBytes_of_length_ne_eight (l : List Byte) (h : l.length ≠ 8) : decodeBytes l = .error .notOneWord := by
  unfold decodeBytes
  split
  · exact absurd rfl h
  · rfl

/-- Settles O7: the laws of a word's bytes, and the decoder's answer to any other number of bytes. -/
theorem byteLinkIsLittleEndian : Obligations.ByteLinkIsLittleEndian :=
  ⟨fun w => ⟨w.length_toBytes, decodeBytes_toBytes w, w.getElem_toBytes⟩, decodeBytes_of_length_ne_eight⟩

/-! ## The step (R80, R343, R356) -/

/-- Settles O8: the law of a command word, then the law of a legal one. -/
theorem stepRunsDecodedCommand : Obligations.StepRunsDecodedCommand := fun s w rest i hs hd => by
  rw [step_command s rest w hs, runWord_legal _ w i hd]

/-- Settles O9: the law of a step with nothing presented. -/
theorem idleStepChangesNothing : Obligations.IdleStepChangesNothing := step_idle

/-- Settles O12: whatever event is the oldest, the block answers it. -/
theorem noEventStopsTheBlock : Obligations.NoEventStopsTheBlock := by
  intro s
  cases hs : s.inputs with
  | nil => exact ⟨s, step_idle s hs⟩
  | cons e rest =>
    cases e with
    | reset => exact ⟨_, step_reset s rest hs⟩
    | command w =>
      rw [step_command s rest w hs]
      cases hd : decode w with
      | ok i => rw [runWord_legal _ w i hd]; exact exec_answers i _
      | error e => exact ⟨_, runWord_illegal _ w e hd⟩

end Sys2Proof.Machine

/-! PROOFS of family 70_reset_and_hazards.md+other, the frames over all commands: the order of events (O10), CONFIGURED
(O24), the double-buffered configuration (O25), the units (O26) and hardware reset (O11). They rest on
`commandBody_ok_eq`, which says once for each command which registers it may write when it completes. -/

namespace Sys2Proof.Machine

open Sys2Proof.Spec

/-! ## A command's answer from its computation (R342, R343) -/

theorem exec_of_commandBody_ok (i : Instr) (s u : State) (h : commandBody i s = .ok u) :
    exec i s = .next (succeed u) := by
  by_cases hi : i = .configure
  · subst hi
    cases hc : configError s.staged with
    | none =>
      simp only [commandBody, hc] at h
      cases h
      exact exec_configure_ok s hc
    | some e => simp only [commandBody, hc] at h; cases h
  · rw [exec_eq_commit i s hi, h, commit_ok]

/-- A failing CONFIGURE clears CONFIGURED besides its report (R312). -/
theorem exec_of_commandBody_error (i : Instr) (s : State) (e : ErrCode) (h : commandBody i s = .error e) :
    exec i s = .next (raiseError e (if i = .configure then { s with configured := false } else s)) := by
  by_cases hi : i = .configure
  · subst hi
    cases hc : configError s.staged with
    | none => simp only [commandBody, hc] at h; cases h
    | some e' =>
      simp only [commandBody, hc] at h
      cases h
      exact exec_configure_error s e hc
  · rw [exec_eq_commit i s hi, h, commit_error, if_neg hi]

/-! ## What a command that completes may write -/

/-- `s` with the registers that the command may write, LAST_ERR apart, as they are in `u`; what CONFIGURE and MAP_LOAD
clear is written out. -/
def withWritesOf (i : Instr) (s u : State) : State :=
  match i with
  | .nop => s
  | .cfgWrite _ _ => { s with staged := u.staged, encSpeed := u.encSpeed, encDir := u.encDir, encAmp := u.encAmp }
  | .read _ => { s with res0 := u.res0 }
  | .configure => configureDone s
  | .decSample _ _ =>
    { s with
      ch0 := u.ch0, ch1 := u.ch1, dir := u.dir, decT := u.decT, map := u.map, sync := u.sync
      res0 := u.res0, res1 := u.res1, res2 := u.res2 }
  | .mapLoad _ => { s with map := u.map, sync := ⟨false, 0#8, false⟩, res0 := u.res0, res1 := u.res1 }
  | .encSample => { s with encSE := u.encSE, encPH := u.encPH, res0 := u.res0, res1 := u.res1, res2 := u.res2 }
  | .encLoad _ => { s with encSE := u.encSE, encPH := u.encPH, res0 := u.res0 }
  | .tmLoad _ => { s with tmS := u.tmS, res0 := u.res0 }
  | .tmAdvance => { s with tmS := u.tmS, res0 := u.res0, res1 := u.res1, res2 := u.res2 }
  | .tmRevert => { s with tmS := u.tmS, res0 := u.res0, res1 := u.res1, res2 := u.res2 }
  | .tmPeekNext => { s with res0 := u.res0, res1 := u.res1, res2 := u.res2 }
  | .tmPeekPrev => { s with res0 := u.res0, res1 := u.res1, res2 := u.res2 }
  | .tmBit _ _ => { s with tmS := u.tmS, res0 := u.res0, res1 := u.res1 }
  | .tfConfig _ => { s with tfAlpha := u.tfAlpha, tf := u.tf, res0 := u.res0 }
  | .tfUpdate _ => { s with tf := u.tf, res0 := u.res0 }
  | .tfPreview _ => { s with res0 := u.res0 }

theorem writeReg_ok_eq (s u : State) (r : Reg) (index : BitVec 8) (v : Word) (h : writeReg s r v = .ok u) :
    u = withWritesOf (.cfgWrite index v) s u := by
  cases r with
  | staged | encSpeed | encDir | encAmp => cases h; rfl
  | _ => cases h

theorem commandBody_ok_eq (i : Instr) (s u : State) (h : commandBody i s = .ok u) : u = withWritesOf i s u := by
  cases i with
  | nop | tfUpdate | tfPreview => cases h; rfl
  | cfgWrite index v =>
    simp only [commandBody] at h
    split at h
    · exact writeReg_ok_eq s u _ index v h
    · cases h
  | read | configure =>
    simp only [commandBody] at h
    split at h <;> cases h
    rfl
  | mapLoad | encLoad | tmLoad =>
    obtain ⟨_, _, hbody⟩ := (gated_ok ..).1 h
    split at hbody <;> cases hbody
    rfl
  | decSample | encSample =>
    obtain ⟨_, _, hbody⟩ := (gated_ok ..).1 h
    simp only [decodeFrame, encodeFrame] at hbody
    split at hbody <;> cases hbody
    rfl
  | tmAdvance | tmRevert | tmPeekNext | tmPeekPrev =>
    obtain ⟨_, _, hbody⟩ := (gated_ok ..).1 h
    simp only [storeStep, peekStep] at hbody
    split at hbody <;> cases hbody
    rfl
  | tmBit bit dir =>
    simp only [commandBody] at h
    split at h
    · obtain ⟨_, _, hbody⟩ := (gated_ok ..).1 h
      simp only [tmBitBody] at hbody
      split at hbody <;> cases hbody
      rfl
    · cases h
  | tfConfig =>
    simp only [commandBody] at h
    split at h <;> cases h
    rfl

/-- A reading of the state that does not see what every command may write: CONFIGURED, FAULT and LAST_ERR. -/
def IgnoresReport {α : Type} (f : State → α) : Prop :=
  ∀ (u : State) (c flt : Bool) (e : ErrCode), f { u with configured := c, fault := flt, lastErr := e } = f u

/-- A failing command changes no other register (R342), so only what a completing one writes counts. -/
theorem exec_keeps {α : Type} (f : State → α) (i : Instr) (s t : State) (hf : IgnoresReport f)
    (hbody : ∀ u, u = withWritesOf i s u → f u = f s) (h : exec i s = .next t) : f t = f s := by
  rcases exec_cases i s t h with ⟨u, hu, rfl⟩ | ⟨_, e, _, rfl⟩ | ⟨_, e, _, rfl⟩
  · exact (hf u _ _ _).trans (hbody u (commandBody_ok_eq i s u hu))
  · exact hf s _ _ _
  · exact hf s _ _ _

/-! ## Events are taken in order (R80, R88) -/

theorem exec_inputs (i : Instr) (s t : State) (h : exec i s = .next t) : t.inputs = s.inputs := by
  refine exec_keeps State.inputs i s t (fun _ _ _ _ => rfl) (fun u hu => ?_) h
  cases i <;> exact (congrArg State.inputs hu).trans rfl

/-- Settles O10: what a step does with the event it took leaves the rest of the list alone. -/
theorem eventsAreTakenInOrder : Obligations.EventsAreTakenInOrder := by
  intro s t e rest hs ht
  rcases step_cases s t ht with ⟨h, _⟩ | ⟨rest', h, rfl⟩ | ⟨w, rest', i, h, _, hexec⟩ | ⟨w, rest', e', h, _, rfl⟩
  all_goals rw [hs] at h; cases h
  · rfl
  · exact exec_inputs i _ t hexec
  · rfl

/-! ## The units (R82, R372) -/

/-- What the channel steps and the phase analyzer keep between frames, and the frame counter. -/
def analysisRegisters (s : State) : Channel × Channel × Direction × Word := (s.ch0, s.ch1, s.dir, s.decT)

def mapperRegisters (s : State) : Mapper × Sync := (s.map, s.sync)

def encoderRegisters (s : State) : Word × Word := (s.encSE, s.encPH)

section
variable (i : Instr) (s t : State) (h : exec i s = .next t)
include h

theorem exec_keeps_analysis (hc : i ≠ .configure) (hd : ∀ a b, i ≠ .decSample a b) :
    analysisRegisters t = analysisRegisters s := by
  refine exec_keeps analysisRegisters i s t (fun _ _ _ _ => rfl) (fun u hu => ?_) h
  cases i with
  | configure => exact absurd rfl hc
  | decSample a b => exact absurd rfl (hd a b)
  | _ => exact (congrArg analysisRegisters hu).trans rfl

theorem exec_keeps_mapper (hc : i ≠ .configure) (hd : ∀ a b, i ≠ .decSample a b) (hm : ∀ p, i ≠ .mapLoad p) :
    mapperRegisters t = mapperRegisters s := by
  refine exec_keeps mapperRegisters i s t (fun _ _ _ _ => rfl) (fun u hu => ?_) h
  cases i with
  | configure => exact absurd rfl hc
  | decSample a b => exact absurd rfl (hd a b)
  | mapLoad p => exact absurd rfl (hm p)
  | _ => exact (congrArg mapperRegisters hu).trans rfl

theorem exec_keeps_encoder (hc : i ≠ .configure) (he : i ≠ .encSample) (hl : ∀ p, i ≠ .encLoad p) :
    encoderRegisters t = encoderRegisters s := by
  refine exec_keeps encoderRegisters i s t (fun _ _ _ _ => rfl) (fun u hu => ?_) h
  cases i with
  | configure => exact absurd rfl hc
  | encSample => exact absurd rfl he
  | encLoad p => exact absurd rfl (hl p)
  | _ => exact (congrArg encoderRegisters hu).trans rfl

theorem exec_keeps_generator (hc : i ≠ .configure) (hl : ∀ v, i ≠ .tmLoad v) (ha : i ≠ .tmAdvance) (hr : i ≠ .tmRevert)
    (hb : ∀ b d, i ≠ .tmBit b d) : t.tmS = s.tmS := by
  refine exec_keeps State.tmS i s t (fun _ _ _ _ => rfl) (fun u hu => ?_) h
  cases i with
  | configure => exact absurd rfl hc
  | tmLoad v => exact absurd rfl (hl v)
  | tmAdvance => exact absurd rfl ha
  | tmRevert => exact absurd rfl hr
  | tmBit b d => exact absurd rfl (hb b d)
  | _ => exact (congrArg State.tmS hu).trans rfl

theorem exec_keeps_tfAlpha (ha : ∀ a, i ≠ .tfConfig a) : t.tfAlpha = s.tfAlpha := by
  refine exec_keeps State.tfAlpha i s t (fun _ _ _ _ => rfl) (fun u hu => ?_) h
  cases i with
  | tfConfig a => exact absurd rfl (ha a)
  | _ => exact (congrArg State.tfAlpha hu).trans rfl

theorem exec_keeps_tf (ha : ∀ a, i ≠ .tfConfig a) (hu : ∀ x, i ≠ .tfUpdate x) : t.tf = s.tf := by
  refine exec_keeps State.tf i s t (fun _ _ _ _ => rfl) (fun u hw => ?_) h
  cases i with
  | tfConfig a => exact absurd rfl (ha a)
  | tfUpdate x => exact absurd rfl (hu x)
  | _ => exact (congrArg State.tf hw).trans rfl

end

/-- Settles O26, unit by unit. -/
theorem unitsChangeOnlyByTheirCommands : Obligations.UnitsChangeOnlyByTheirCommands := by
  intro i s t h
  refine ⟨fun hc hd => ?_, fun hc he hl => Prod.mk.inj (exec_keeps_encoder i s t h hc he hl), exec_keeps_generator i s t h,
    fun ha => ⟨exec_keeps_tfAlpha i s t h ha, exec_keeps_tf i s t h ha⟩, exec_inputs i s t h⟩
  have hanalysis := exec_keeps_analysis i s t h hc hd
  simp only [analysisRegisters, Prod.mk.injEq] at hanalysis
  obtain ⟨hch0, hch1, hdir, hdecT⟩ := hanalysis
  exact ⟨hch0, hch1, hdir, hdecT, fun hm => Prod.mk.inj (exec_keeps_mapper i s t h hc hd hm)⟩

/-! ## CONFIGURED and the double-buffered configuration (R32, R34, R92) -/

theorem exec_keeps_configured (i : Instr) (s t : State) (hc : i ≠ .configure) (h : exec i s = .next t) :
    t.configured = s.configured := by
  rcases exec_cases i s t h with ⟨u, hu, rfl⟩ | ⟨_, e, _, rfl⟩ | ⟨hi, _⟩
  · exact (commandBody_ok_frame i s u hc hu).1
  · rfl
  · exact absurd hi hc

/-- CONFIGURE reports OK with CONFIGURED = 1 and the staged set active, or an error with CONFIGURED = 0. -/
theorem exec_configure_cases (s t : State) (h : exec .configure s = .next t) :
    (t.lastErr = .ok ∧ t.configured = true ∧ t.act = s.staged) ∨
    (t.lastErr ≠ .ok ∧ t.configured = false ∧ t.act = s.act) := by
  rcases exec_cases .configure s t h with ⟨u, hu, rfl⟩ | ⟨hi, _⟩ | ⟨_, e, he, rfl⟩
  · rw [commandBody_ok_eq .configure s u hu]
    exact .inl ⟨rfl, rfl, rfl⟩
  · exact absurd rfl hi
  · rcases configError_code _ e he with rfl | rfl
    all_goals exact .inr ⟨nofun, rfl, rfl⟩

/-- Settles O24: only CONFIGURE writes CONFIGURED, and its two answers tell the report apart. -/
theorem configuredFollowsConfigure : Obligations.ConfiguredFollowsConfigure := by
  refine fun i s t h => ⟨fun hc => exec_keeps_configured i s t hc h, ?_⟩
  rintro rfl
  rcases exec_configure_cases s t h with ⟨hok, hconf, _⟩ | ⟨hfail, hconf, _⟩
  · exact iff_of_true hconf hok
  · exact iff_of_false (by rw [hconf]; exact nofun) hfail

theorem exec_keeps_act (i : Instr) (s t : State) (hc : i ≠ .configure) (h : exec i s = .next t) : t.act = s.act := by
  refine exec_keeps State.act i s t (fun _ _ _ _ => rfl) (fun u hu => ?_) h
  cases i with
  | configure => exact absurd rfl hc
  | _ => exact (congrArg State.act hu).trans rfl

/-- The registers that the host writes: the staged ones and the encoder's live controls. -/
def hostRegisters (s : State) : ConfigRegs × Word × Direction × BitVec 15 := (s.staged, s.encSpeed, s.encDir, s.encAmp)

theorem exec_keeps_hostRegisters (i : Instr) (s t : State) (hw : ∀ idx v, i ≠ .cfgWrite idx v)
    (h : exec i s = .next t) : hostRegisters t = hostRegisters s := by
  refine exec_keeps hostRegisters i s t (fun _ _ _ _ => rfl) (fun u hu => ?_) h
  cases i with
  | cfgWrite idx v => exact absurd rfl (hw idx v)
  | _ => exact (congrArg hostRegisters hu).trans rfl

/-- A CFG_WRITE that fails writes none of them. -/
theorem exec_cfgWrite_fails_keeps_hostRegisters (idx : BitVec 8) (v : Word) (s t : State)
    (h : exec (.cfgWrite idx v) s = .next t) (hfail : t.lastErr ≠ .ok) : hostRegisters t = hostRegisters s := by
  rcases exec_cases _ s t h with ⟨u, _, rfl⟩ | ⟨_, e, _, rfl⟩ | ⟨hi, _⟩
  · exact absurd rfl hfail
  · rfl
  · cases hi

/-- The indices up to 0x0F name staged registers only (R35). -/
theorem exec_cfgWrite_low_index (idx : BitVec 8) (v : Word) (s t : State) (h : exec (.cfgWrite idx v) s = .next t)
    (hidx : idx.toNat ≤ 0x0F) : t = { s with staged := t.staged, lastErr := t.lastErr } := by
  cases hr : Reg.ofIndex idx with
  | none =>
    rw [exec_cfgWrite_of_ofIndex_none s idx v hr] at h
    cases h; rfl
  | some r =>
    cases r with
    | staged c =>
      rw [exec_cfgWrite_staged s idx v c hr] at h
      cases h; rfl
    | _ =>
      have hindex := (Reg.ofIndex_eq_some_iff idx _).1 hr
      simp only [Reg.index] at hindex
      omega

/-- Settles O25: only CONFIGURE writes the active set, only CFG_WRITE the staged set and the live controls. -/
theorem configurationIsDoubleBuffered : Obligations.ConfigurationIsDoubleBuffered := by
  refine fun i s t h => ⟨fun hact => ?_, fun hhost => ?_, ?_⟩
  · have hi : i = .configure := by_contra fun hc => hact (exec_keeps_act i s t hc h)
    subst hi
    rcases exec_configure_cases s t h with ⟨hok, _, hstaged⟩ | ⟨_, _, hkept⟩
    · exact ⟨rfl, hok, hstaged⟩
    · exact absurd hkept hact
  · have hne : hostRegisters t ≠ hostRegisters s := by
      simp only [hostRegisters, ne_eq, Prod.mk.injEq]
      tauto
    obtain ⟨idx, v, rfl⟩ : ∃ idx v, i = .cfgWrite idx v :=
      by_contra fun hw => hne (exec_keeps_hostRegisters i s t (fun idx v hi => hw ⟨idx, v, hi⟩) h)
    exact ⟨idx, v, rfl, by_contra fun hfail => hne (exec_cfgWrite_fails_keeps_hostRegisters idx v s t h hfail)⟩
  · rintro idx v rfl
    exact exec_cfgWrite_low_index idx v s t h

/-! ## Hardware reset (R370) -/

theorem exec_tmBit_stopped (b : Bool) (s : State) :
    exec (.tmBit b .stopped) s = .next (raiseError .illegalCommand s) := rfl

/-- The generator states of the decoder, the encoder and the test unit. -/
def generatorStates (s : State) : Word × Word × Word := (s.map.s, s.encSE, s.tmS)

/-- Outside the gate only CONFIGURE writes a generator state. -/
theorem exec_ungated_keeps_generatorStates (i : Instr) (s t : State) (hn : needsConfig i = false) (hc : i ≠ .configure)
    (h : exec i s = .next t) : generatorStates t = generatorStates s := by
  cases i with
  | tmBit b d =>
    cases d with
    | stopped => rw [exec_tmBit_stopped] at h; cases h; rfl
    | forward | backward => cases hn
  | configure => exact absurd rfl hc
  | decSample | mapLoad | encSample | encLoad | tmLoad | tmAdvance | tmRevert | tmPeekNext | tmPeekPrev => cases hn
  | nop | cfgWrite | read | tfConfig | tfUpdate | tfPreview =>
    exact exec_keeps generatorStates _ s t (fun _ _ _ _ => rfl) (fun u hu => (congrArg generatorStates hu).trans rfl) h

/-- A CONFIGURE that does not succeed starts no session. -/
theorem exec_configure_fails_keeps_generatorStates (s t : State) (h : exec .configure s = .next t)
    (ht : t.configured = false) : generatorStates t = generatorStates s := by
  rcases exec_cases .configure s t h with ⟨u, hu, rfl⟩ | ⟨hi, _⟩ | ⟨_, e, _, rfl⟩
  · rw [commandBody_ok_eq .configure s u hu] at ht
    cases ht
  · exact absurd rfl hi
  · rfl

/-- Before a CONFIGURE succeeds the gate keeps every command from the generator states (R345, R370). -/
theorem exec_unconfigured_keeps_generatorStates (i : Instr) (s t : State) (hs : s.configured = false)
    (h : exec i s = .next t) (ht : t.configured = false) : generatorStates t = generatorStates s := by
  cases hn : needsConfig i with
  | true =>
    rw [(gated_of_needsConfig i hn s).1 hs] at h
    cases h; rfl
  | false =>
    by_cases hc : i = .configure
    · subst hc
      exact exec_configure_fails_keeps_generatorStates s t h ht
    · exact exec_ungated_keeps_generatorStates i s t hn hc h

/-- Settles O11: the reset event, STATUS of the reset state, and the gate. -/
theorem hardwareResetSetsEveryRegister : Obligations.HardwareResetSetsEveryRegister := by
  refine ⟨fun s rest hs => ⟨rest, step_reset s rest hs⟩, exec_read_status State.reset, fun i s t hs h ht => ?_⟩
  simpa only [generatorStates, Prod.mk.injEq] using exec_unconfigured_keeps_generatorStates i s t hs h ht

end Sys2Proof.Machine

/-! PROOFS of family 70_reset_and_hazards.md+other, codes and FAULT: the codes each command reports (O23), the sticky
FAULT (O20), the invariants at reset (O56) and that no run sets FAULT (O59). A gated command fails with its gate's codes or
with those of its body (`commandBody_gated`), so FAULTED needs FAULT, which no command sets from a state that meets the
invariants. -/

namespace Sys2Proof.Machine

open Sys2Proof.Spec

/-! ## The codes of the gated commands (R340, R344) -/

theorem storeStep_error (s : State) (r : Except ErrCode GenStep) (e : ErrCode) (h : storeStep s r = .error e) :
    r = .error e := by
  cases r <;> cases h
  rfl

theorem peekStep_error (s : State) (r : Except ErrCode GenStep) (e : ErrCode) (h : peekStep s r = .error e) :
    r = .error e := by
  cases r <;> cases h
  rfl

theorem encForward_error (p : ConfigRegs) (se ph : Word) (inc : Nat) (e : ErrCode)
    (h : encForward p se ph inc = .error e) : e = .lfsrZero := by
  unfold encForward at h
  split at h
  · split at h
    · cases h
    · next hg => cases h; exact ((advance_error _ _ _).1 hg).2
  · cases h

theorem encBackward_error (p : ConfigRegs) (se ph : Word) (inc : Nat) (e : ErrCode)
    (h : encBackward p se ph inc = .error e) : e = .lfsrZero := by
  unfold encBackward at h
  split at h
  · split at h
    · cases h
    · next hg => cases h; exact ((revert_error _ _ _).1 hg).2
  · cases h

/-- The encoder's move fails only where SE steps from the zero state. -/
theorem encMove_error (s : State) (e : ErrCode) (h : encMove s = .error e) : e = .lfsrZero := by
  unfold encMove at h
  split at h
  · cases h
  · exact encForward_error _ _ _ _ _ h
  · exact encBackward_error _ _ _ _ _ h

theorem encodeFrame_error (s : State) (e : ErrCode) (h : encodeFrame s = .error e) : e = .lfsrZero := by
  unfold encodeFrame at h
  split at h
  · cases h
  · next hm => cases h; exact encMove_error s _ hm

theorem tmBitBody_error (s : State) (b : Bool) (d : Direction) (e : ErrCode) (hd : d ≠ .stopped)
    (h : tmBitBody b d s = .error e) : e = .lfsrZero := by
  unfold tmBitBody at h
  split at h
  · cases h
  · next hm => cases h; exact ((mapperStep_error _ _ _ _ _ hd).1 hm).2

theorem ite_invalidParameter_error (c : Bool) (u : State) (e : ErrCode)
    (h : (if c then Except.ok u else .error .invalidParameter) = .error e) : e = .invalidParameter := by
  cases c <;> cases h
  rfl

/-- A gated command is its gate and a body, which fails with a listed code that is none of the gate's. -/
theorem commandBody_gated (i : Instr) (s : State) (hi : needsConfig i = true) :
    ∃ body, commandBody i s = gated s body ∧ ∀ e, body = .error e → e ∈ codesOf i ∧ e ≠ .faulted := by
  have hzero (hlist : ErrCode.lfsrZero ∈ codesOf i) (e : ErrCode) (he : e = .lfsrZero) : e ∈ codesOf i ∧ e ≠ .faulted :=
    he ▸ ⟨hlist, nofun⟩
  cases i with
  | decSample a b => exact ⟨_, rfl, fun e he => hzero (by simp [codesOf]) e (decodeFrame_error s a b e he)⟩
  | encSample => exact ⟨_, rfl, fun e he => hzero (by simp [codesOf]) e (encodeFrame_error s e he)⟩
  | mapLoad | encLoad | tmLoad =>
    refine ⟨_, rfl, fun e he => ?_⟩
    rw [ite_invalidParameter_error _ _ e he]
    simp [codesOf]
  | tmAdvance =>
    exact ⟨_, rfl, fun e he => hzero (by simp [codesOf]) e ((advance_error _ _ e).1 (storeStep_error s _ e he)).2⟩
  | tmRevert =>
    exact ⟨_, rfl, fun e he => hzero (by simp [codesOf]) e ((revert_error _ _ e).1 (storeStep_error s _ e he)).2⟩
  | tmPeekNext =>
    exact ⟨_, rfl, fun e he => hzero (by simp [codesOf]) e ((advance_error _ _ e).1 (peekStep_error s _ e he)).2⟩
  | tmPeekPrev =>
    exact ⟨_, rfl, fun e he => hzero (by simp [codesOf]) e ((revert_error _ _ e).1 (peekStep_error s _ e he)).2⟩
  | tmBit b d =>
    have hd : d ≠ .stopped := by rintro rfl; cases hi
    exact ⟨_, if_pos hi, fun e he => hzero (by simp [codesOf]) e (tmBitBody_error s b d e hd he)⟩
  | nop | cfgWrite | read | configure | tfConfig | tfUpdate | tfPreview => cases hi

theorem gate_codes_mem_codesOf (i : Instr) (hi : needsConfig i = true) :
    .notConfigured ∈ codesOf i ∧ .faulted ∈ codesOf i := by
  cases i with
  | nop | cfgWrite | read | configure | tfConfig | tfUpdate | tfPreview => cases hi
  | _ => simp [codesOf]

theorem commandBody_error_mem_codesOf (i : Instr) (s : State) (e : ErrCode) (hwf : i.wellFormed = true)
    (h : commandBody i s = .error e) : e ∈ codesOf i := by
  cases hi : needsConfig i with
  | false => exact commandBody_error_mem_codesOf_of_ungated i s e hwf hi h
  | true =>
    obtain ⟨body, hgate, hbody⟩ := commandBody_gated i s hi
    obtain ⟨hnot, hfaulted⟩ := gate_codes_mem_codesOf i hi
    rw [hgate, gated_error] at h
    rcases h with ⟨_, rfl⟩ | ⟨_, _, rfl⟩ | ⟨_, _, he⟩
    · exact hnot
    · exact hfaulted
    · exact (hbody e he).1

theorem ok_mem_codesOf (i : Instr) : .ok ∈ codesOf i := by cases i <;> exact List.mem_cons_self

/-- Settles O23: OK is listed for every command, and so is each code its computation can stop with. -/
theorem commandsReportTheirCodes : Obligations.CommandsReportTheirCodes := by
  intro i s hwf
  obtain ⟨t, ht⟩ := exec_answers i s
  refine ⟨t, ht, ?_⟩
  rcases exec_lastErr i s t ht with hok | herr
  · rw [hok]; exact ok_mem_codesOf i
  · exact commandBody_error_mem_codesOf i s _ hwf herr

/-! ## FAULT (R344) -/

/-- R340 lists FAULTED for no well-formed command outside the gate. -/
theorem faulted_not_mem_codesOf (i : Instr) (hwf : i.wellFormed = true) (hi : needsConfig i = false) :
    .faulted ∉ codesOf i := by
  cases i with
  | tmBit b d => exact absurd (hwf.symm.trans hi) nofun
  | decSample | mapLoad | encSample | encLoad | tmLoad | tmAdvance | tmRevert | tmPeekNext | tmPeekPrev => cases hi
  | nop | cfgWrite | read | configure | tfConfig | tfUpdate | tfPreview => simp [codesOf]

/-- FAULTED is reported by a gated command, and only while FAULT is 1. -/
theorem faulted_of_lastErr (i : Instr) (s t : State) (hwf : i.wellFormed = true) (h : exec i s = .next t)
    (ht : t.lastErr = .faulted) : needsConfig i = true ∧ s.fault = true := by
  have herr : commandBody i s = .error .faulted := by
    rcases exec_lastErr i s t h with hok | herr
    · rw [ht] at hok; cases hok
    · rwa [ht] at herr
  cases hi : needsConfig i with
  | false =>
    exact absurd (commandBody_error_mem_codesOf_of_ungated i s _ hwf hi herr) (faulted_not_mem_codesOf i hwf hi)
  | true =>
    obtain ⟨body, hgate, hbody⟩ := commandBody_gated i s hi
    rw [hgate, gated_error] at herr
    rcases herr with ⟨_, hcode⟩ | ⟨_, hfault, _⟩ | ⟨_, _, he⟩
    · cases hcode
    · exact ⟨rfl, hfault⟩
    · exact absurd rfl (hbody _ he).2

/-- A command clears FAULT only as a CONFIGURE that succeeds. -/
theorem exec_clears_fault (i : Instr) (s t : State) (h : exec i s = .next t) (hs : s.fault = true)
    (ht : t.fault = false) : i = .configure ∧ t.lastErr = .ok := by
  rcases exec_cases i s t h with ⟨u, hu, rfl⟩ | ⟨_, e, _, rfl⟩ | ⟨_, e, _, rfl⟩
  · refine ⟨by_contra fun hi => ?_, rfl⟩
    obtain ⟨_, hfault, _⟩ := commandBody_ok_frame i s u hi hu
    rw [succeed_fault, hfault, hs] at ht
    cases ht
  · simp [hs] at ht
  · simp [hs] at ht

/-- Settles O20: the gate answers FAULTED, nothing else reports it, and no other event clears FAULT. -/
theorem faultIsStickyAndGates : Obligations.FaultIsStickyAndGates := by
  refine ⟨fun i s t hwf hs h => ⟨fun hi hc => ?_, fun hi ht => ?_⟩, fun s t hs h ht => ?_⟩
  · rw [(gated_of_needsConfig i hi s).2 hc hs] at h
    cases h; rfl
  · obtain ⟨hgated, _⟩ := faulted_of_lastErr i s t hwf h ht
    rw [hi] at hgated; cases hgated
  · rcases step_cases s t h with ⟨_, rfl⟩ | ⟨rest, hreset, _⟩ | ⟨w, rest, i, hcmd, hd, hexec⟩ | ⟨w, rest, e, _, _, rfl⟩
    · rw [hs] at ht; cases ht
    · exact .inl ⟨rest, hreset⟩
    · obtain ⟨rfl, hok⟩ := exec_clears_fault i { s with inputs := rest } t hexec hs ht
      exact .inr ⟨w, rest, hcmd, hd, hok⟩
    · simp [hs] at ht

/-! ## No run sets FAULT (R47, R344) -/

/-- The invariants, and a LAST_ERR that is neither of the codes that come with FAULT. -/
def FaultFree (s : State) : Prop := s.Inv ∧ s.lastErr ≠ .lfsrZero ∧ s.lastErr ≠ .faulted

theorem exec_faultFree (i : Instr) (s t : State) (hwf : i.wellFormed = true) (hs : s.Inv) (h : exec i s = .next t) :
    FaultFree t := by
  refine ⟨exec_keepsInv i s t hs h, fun ht => ?_, fun ht => ?_⟩
  · have hkeeps := commandBody_keepsInv i s hs
    rcases exec_lastErr i s t h with hok | herr
    · rw [ht] at hok; cases hok
    · rw [herr] at hkeeps
      exact hkeeps ht
  · obtain ⟨_, hfault⟩ := faulted_of_lastErr i s t hwf h ht
    obtain ⟨_, hclear, _⟩ := hs
    rw [hclear] at hfault; cases hfault

theorem step_faultFree (s : State) (hs : FaultFree s) : ∃ t, step s = .next t ∧ FaultFree t := by
  obtain ⟨t, ht⟩ := noEventStopsTheBlock s
  refine ⟨t, ht, ?_⟩
  rcases step_cases s t ht with ⟨_, rfl⟩ | ⟨rest, _, rfl⟩ | ⟨w, rest, i, _, hd, hexec⟩ | ⟨w, rest, e, _, _, rfl⟩
  · exact hs
  · exact ⟨hardwareReset_inv _, nofun, nofun⟩
  · exact exec_faultFree i { s with inputs := rest } t (encode_of_decode i w hd).1 hs.1 hexec
  · exact ⟨raiseError_inv .illegalCommand { s with inputs := rest } nofun hs.1, nofun, nofun⟩

/-- Settles O56: the reset values are those a reset event leaves, and no mapper tracks. -/
theorem invariantsHoldAtReset : Obligations.InvariantsHoldAtReset := ⟨hardwareReset_inv State.reset, nofun⟩

/-- Settles O59: every step keeps `FaultFree`, so every run does. -/
theorem noCommandSequenceSetsFault : Obligations.NoCommandSequenceSetsFault := by
  intro presented n
  have hreset : FaultFree { State.reset with inputs := presented } :=
    ⟨hardwareReset_inv { State.reset with inputs := presented }, nofun, nofun⟩
  obtain ⟨t, ht, ⟨_, hfault, _⟩, hcodes⟩ := run_keeps FaultFree step_faultFree n _ hreset
  exact ⟨t, ht, hfault, hcodes⟩

end Sys2Proof.Machine

/-! PROOFS of family 70_reset_and_hazards.md+other, what a command does not learn or touch: READ (O16, O29), DEC_SAMPLE
and the other units (O27), and the results (O28). O27 and O28 compare two runs of a command through its computation
`commandBody`: the gate and the end of a command pass the difference of the two states on. -/

namespace Sys2Proof.Machine

open Sys2Proof.Spec

/-! ## READ (R35, R87) -/

theorem exec_read_reserved_iff (s : State) (i : BitVec 8) :
    exec (.read i) s = .next { s with lastErr := .badIndex } ↔ Reg.ofIndex i = none := by
  cases hr : Reg.ofIndex i with
  | none => exact iff_of_true (exec_read_of_ofIndex_none s i hr) rfl
  | some r =>
    rw [exec_read_of_ofIndex_some s i r hr]
    refine iff_of_false (fun h => ?_) nofun
    injection h with h
    exact absurd (congrArg State.lastErr h) nofun

/-- The gaps of R35's table. -/
theorem Reg.ofIndex_eq_none_iff : ∀ i : BitVec 8, Reg.ofIndex i = none ↔
    i.toNat = 0x07 ∨ (0x13 ≤ i.toNat ∧ i.toNat ≤ 0x1F) ∨ (0x27 ≤ i.toNat ∧ i.toNat ≤ 0x2F) ∨
      (0x35 ≤ i.toNat ∧ i.toNat ≤ 0x37) ∨ (0x3D ≤ i.toNat ∧ i.toNat ≤ 0x3F) ∨ (0x52 ≤ i.toNat ∧ i.toNat ≤ 0x57) ∨
      0x5C ≤ i.toNat := by decide

/-- Settles O16: READ reports BAD_INDEX exactly where R35's table names no register. -/
theorem reservedIndicesExactly : Obligations.ReservedIndicesExactly := fun s i =>
  (exec_read_reserved_iff s i).trans (Reg.ofIndex_eq_none_iff i)

/-- The mask of `0xFFFFF0FF` clears bits 11:8 of a word laid out as STATUS is (R33). -/
theorem statusLayout_and_mask (err : BitVec 4) (flt mtch vld trk conf : Bool) (dir : BitVec 2) :
    (0#20 ++ err ++ 0#1 ++ BitVec.ofBool flt ++ BitVec.ofBool mtch ++ BitVec.ofBool vld ++ dir ++ BitVec.ofBool trk
      ++ BitVec.ofBool conf) &&& (0xFFFFF#20 ++ 0#4 ++ 1#1 ++ 1#1 ++ 1#1 ++ 1#1 ++ 3#2 ++ 1#1 ++ 1#1) =
    0#20 ++ 0#4 ++ 0#1 ++ BitVec.ofBool flt ++ BitVec.ofBool mtch ++ BitVec.ofBool vld ++ dir ++ BitVec.ofBool trk
      ++ BitVec.ofBool conf := by
  have hbit (b : Bool) : BitVec.ofBool b &&& 1#1 = BitVec.ofBool b := BitVec.and_allOnes
  have hdir : dir &&& 3#2 = dir := BitVec.and_allOnes
  simp only [BitVec.and_append, hbit, hdir, BitVec.zero_and, BitVec.and_zero]

/-- LAST_ERR is the one field of STATUS that a READ that completes writes. -/
theorem statusWord_succeed (s : State) (v : Word) :
    statusWord (succeed { s with res0 := v }) = statusWord s &&& 0xFFFFF0FF#32 :=
  (statusLayout_and_mask s.lastErr.code s.fault s.sync.lastMatch (statusValid s) s.sync.tracking s.configured
    s.dir.code).symm

theorem readReg_succeed (s : State) (r : Reg) (v : Word) (hr : r ≠ .status) :
    readReg (succeed { s with res0 := v }) r = readReg s r := by
  cases r with
  | status => exact absurd rfl hr
  | _ => rfl

/-- Settles O29: a READ samples before it writes, and of what it writes only LAST_ERR can be read, in STATUS. -/
theorem readHasNoSideEffect : Obligations.ReadHasNoSideEffect := by
  intro s i
  cases hr : Reg.ofIndex i with
  | none =>
    refine ⟨_, exec_read_of_ofIndex_none s i hr, rfl, fun _ => exec_read_of_ofIndex_none _ i hr, ?_⟩
    rintro rfl
    cases hr
  | some r =>
    refine ⟨_, exec_read_of_ofIndex_some s i r hr, rfl, fun hi => ?_, ?_⟩
    · have hne : r ≠ .status := by
        rintro rfl
        exact hi (BitVec.eq_of_toNat_eq ((Reg.ofIndex_eq_some_iff i _).1 hr))
      rw [exec_read_of_ofIndex_some _ i r hr, readReg_succeed s r _ hne]
      rfl
    · rintro rfl
      cases hr
      rw [exec_read_status, statusWord_succeed]
      rfl

/-! ## DEC_SAMPLE learns nothing of the other units (R82) -/

/-- `s` with the encoder, the test units, the staged registers and the encoder's controls of `o`. -/
def State.withOtherUnitsOf (s o : State) : State :=
  { s with
    staged := o.staged, encSpeed := o.encSpeed, encDir := o.encDir, encAmp := o.encAmp, encSE := o.encSE
    encPH := o.encPH, tmS := o.tmS, tf := o.tf, tfAlpha := o.tfAlpha }

/-- The frame's stages read the decoder session and the active registers only. -/
theorem frameFeed_withOtherUnitsOf (s o : State) (a b : Sample) :
    frameFeed (s.withOtherUnitsOf o) a b = frameFeed s a b := rfl

theorem decodeFrame_withOtherUnitsOf (s o : State) (a b : Sample) :
    decodeFrame (s.withOtherUnitsOf o) a b = (decodeFrame s a b).map (·.withOtherUnitsOf o) := by
  rw [decodeFrame, frameFeed_withOtherUnitsOf, decodeFrame]
  cases frameFeed s a b <;> rfl

/-- The gate reads CONFIGURED and FAULT only. -/
theorem gated_congr (s s' : State) (body : Except ErrCode State) (hc : s'.configured = s.configured)
    (hf : s'.fault = s.fault) : gated s' body = gated s body := by
  rw [gated, gated, hc, hf]

/-- A gate is shut, whatever the body, or open. -/
theorem gated_shut_or_open (s : State) :
    (∃ e, ∀ body, gated s body = .error e) ∨ ∀ body, gated s body = body := by
  cases hc : s.configured with
  | false => exact .inl ⟨_, fun body => gated_not_configured s body hc⟩
  | true =>
    cases hf : s.fault with
    | true => exact .inl ⟨_, fun body => gated_faulted s body hc hf⟩
    | false => exact .inr fun body => gated_open s body hc hf

theorem gated_withOtherUnitsOf (s o : State) (body : Except ErrCode State) :
    gated (s.withOtherUnitsOf o) (body.map (·.withOtherUnitsOf o)) = (gated s body).map (·.withOtherUnitsOf o) := by
  rw [gated_congr s (s.withOtherUnitsOf o) _ rfl rfl]
  rcases gated_shut_or_open s with ⟨e, hshut⟩ | hopen
  · rw [hshut, hshut]; rfl
  · rw [hopen, hopen]

theorem commit_withOtherUnitsOf (s t o : State) (r : Except ErrCode State) (h : commit s r = .next t) :
    commit (s.withOtherUnitsOf o) (r.map (·.withOtherUnitsOf o)) = .next (t.withOtherUnitsOf o) := by
  cases r <;> cases h <;> rfl

/-- Settles O27: a frame's computation from the changed state is the changed result of its computation. -/
theorem decoderIgnoresOtherUnits : Obligations.DecoderIgnoresOtherUnits := by
  intro s a b stg spd d amp se ph tm al f
  obtain ⟨t, ht⟩ := exec_answers (.decSample a b) s
  refine ⟨t, ht, ?_⟩
  have hcommit := commit_withOtherUnitsOf s t
    { s with staged := stg, encSpeed := spd, encDir := d, encAmp := amp, encSE := se, encPH := ph, tmS := tm, tf := f,
             tfAlpha := al } _ ht
  rw [← gated_withOtherUnitsOf, ← decodeFrame_withOtherUnitsOf] at hcommit
  exact hcommit

/-! ## Results are never operands (R30) -/

/-- `s` with other values in the result registers. -/
def State.withResults (s : State) (r0 r1 r2 : Word) : State := { s with res0 := r0, res1 := r1, res2 := r2 }

/-- A result register after a command, `q` in the changed run and `new` in the other: written alike, or kept at its
values before, `r` and `old`. -/
def SameResult (r old : Word) (q new : Word) : Prop := q = new ∨ q = r ∧ new = old

/-- Two computations, from `s` and from `s` with the results `r0`, `r1`, `r2`, that differ in kept results only. -/
def SameButKeptResults (s : State) (r0 r1 r2 : Word) (x y : Except ErrCode State) : Prop :=
  (∃ e, x = .error e ∧ y = .error e) ∨
  ∃ u q0 q1 q2, x = .ok u ∧ y = .ok (u.withResults q0 q1 q2) ∧
    SameResult r0 s.res0 q0 u.res0 ∧ SameResult r1 s.res1 q1 u.res1 ∧ SameResult r2 s.res2 q2 u.res2

section
variable {s : State} {r0 r1 r2 : Word}

theorem sameButKeptResults_error {e : ErrCode} : SameButKeptResults s r0 r1 r2 (.error e) (.error e) :=
  .inl ⟨e, rfl, rfl⟩

/-- All three results written. -/
theorem sameButKeptResults_all (u : State) : SameButKeptResults s r0 r1 r2 (.ok u) (.ok u) :=
  .inr ⟨u, u.res0, u.res1, u.res2, rfl, rfl, .inl rfl, .inl rfl, .inl rfl⟩

/-- RES0 and RES1 written, RES2 kept. -/
theorem sameButKeptResults_two (u : State) (h2 : u.res2 = s.res2) :
    SameButKeptResults s r0 r1 r2 (.ok u) (.ok { u with res2 := r2 }) :=
  .inr ⟨u, u.res0, u.res1, r2, rfl, rfl, .inl rfl, .inl rfl, .inr ⟨rfl, h2⟩⟩

/-- RES0 written, RES1 and RES2 kept. -/
theorem sameButKeptResults_one (u : State) (h1 : u.res1 = s.res1) (h2 : u.res2 = s.res2) :
    SameButKeptResults s r0 r1 r2 (.ok u) (.ok { u with res1 := r1, res2 := r2 }) :=
  .inr ⟨u, u.res0, r1, r2, rfl, rfl, .inl rfl, .inr ⟨rfl, h1⟩, .inr ⟨rfl, h2⟩⟩

/-- No result written. -/
theorem sameButKeptResults_none (u : State) (h0 : u.res0 = s.res0) (h1 : u.res1 = s.res1) (h2 : u.res2 = s.res2) :
    SameButKeptResults s r0 r1 r2 (.ok u) (.ok (u.withResults r0 r1 r2)) :=
  .inr ⟨u, r0, r1, r2, rfl, rfl, .inr ⟨rfl, h0⟩, .inr ⟨rfl, h1⟩, .inr ⟨rfl, h2⟩⟩

theorem gated_sameButKeptResults {x y : Except ErrCode State} (h : SameButKeptResults s r0 r1 r2 x y) :
    SameButKeptResults s r0 r1 r2 (gated s x) (gated (s.withResults r0 r1 r2) y) := by
  rw [gated_congr s (s.withResults r0 r1 r2) y rfl rfl]
  rcases gated_shut_or_open s with ⟨e, hshut⟩ | hopen
  · rw [hshut, hshut]; exact sameButKeptResults_error
  · rw [hopen, hopen]; exact h

theorem decodeFrame_sameButKeptResults (a b : Sample) :
    SameButKeptResults s r0 r1 r2 (decodeFrame s a b) (decodeFrame (s.withResults r0 r1 r2) a b) := by
  have hfeed : frameFeed (s.withResults r0 r1 r2) a b = frameFeed s a b := rfl
  rw [decodeFrame, decodeFrame, hfeed]
  cases frameFeed s a b with
  | error e => exact sameButKeptResults_error
  | ok f => exact sameButKeptResults_all (frameDone s a b f)

theorem encodeFrame_sameButKeptResults :
    SameButKeptResults s r0 r1 r2 (encodeFrame s) (encodeFrame (s.withResults r0 r1 r2)) := by
  have hmove : encMove (s.withResults r0 r1 r2) = encMove s := rfl
  rw [encodeFrame, encodeFrame, hmove]
  cases encMove s with
  | error e => exact sameButKeptResults_error
  | ok m => exact sameButKeptResults_all (encDone s m)

theorem storeStep_sameButKeptResults (r : Except ErrCode GenStep) :
    SameButKeptResults s r0 r1 r2 (storeStep s r) (storeStep (s.withResults r0 r1 r2) r) := by
  cases r with
  | error e => exact sameButKeptResults_error
  | ok g => exact sameButKeptResults_all _

theorem peekStep_sameButKeptResults (r : Except ErrCode GenStep) :
    SameButKeptResults s r0 r1 r2 (peekStep s r) (peekStep (s.withResults r0 r1 r2) r) := by
  cases r with
  | error e => exact sameButKeptResults_error
  | ok g => exact sameButKeptResults_all _

theorem tmBitBody_sameButKeptResults (b : Bool) (d : Direction) :
    SameButKeptResults s r0 r1 r2 (tmBitBody b d s) (tmBitBody b d (s.withResults r0 r1 r2)) := by
  have hstep : mapperStep (s.withResults r0 r1 r2).act (s.withResults r0 r1 r2).tmS b d =
      mapperStep s.act s.tmS b d := rfl
  rw [tmBitBody, tmBitBody, hstep]
  cases mapperStep s.act s.tmS b d with
  | error e => exact sameButKeptResults_error
  | ok x => exact sameButKeptResults_two _ rfl

theorem writeReg_sameButKeptResults (r : Reg) (v : Word) :
    SameButKeptResults s r0 r1 r2 (writeReg s r v) (writeReg (s.withResults r0 r1 r2) r v) := by
  cases r with
  | staged | encSpeed | encDir | encAmp => exact sameButKeptResults_none _ rfl rfl rfl
  | _ => exact sameButKeptResults_error

/-- READ has no index for the results. -/
theorem readReg_withResults (r : Reg) : readReg (s.withResults r0 r1 r2) r = readReg s r := by cases r <;> rfl

/-- A computation that succeeds or not by a test that does not see the results. -/
theorem ite_sameButKeptResults {c : Bool} {e : ErrCode} {u u' : State}
    (h : SameButKeptResults s r0 r1 r2 (.ok u) (.ok u')) :
    SameButKeptResults s r0 r1 r2 (if c then .ok u else .error e) (if c then .ok u' else .error e) := by
  cases c with
  | true => exact h
  | false => exact sameButKeptResults_error

theorem commandBody_sameButKeptResults (i : Instr) :
    SameButKeptResults s r0 r1 r2 (commandBody i s) (commandBody i (s.withResults r0 r1 r2)) := by
  cases i with
  | nop => exact sameButKeptResults_none s rfl rfl rfl
  | cfgWrite index v =>
    simp only [commandBody]
    cases Reg.ofIndex index with
    | none => exact sameButKeptResults_error
    | some r => exact writeReg_sameButKeptResults r v
  | read index =>
    simp only [commandBody]
    cases Reg.ofIndex index with
    | none => exact sameButKeptResults_error
    | some r =>
      simp only [readReg_withResults]
      exact sameButKeptResults_one { s with res0 := readReg s r } rfl rfl
  | configure =>
    have hstaged : (s.withResults r0 r1 r2).staged = s.staged := rfl
    simp only [commandBody, hstaged]
    cases configError s.staged with
    | none => exact sameButKeptResults_one (configureDone s) rfl rfl
    | some e => exact sameButKeptResults_error
  | decSample a b => exact gated_sameButKeptResults (decodeFrame_sameButKeptResults a b)
  | mapLoad pos =>
    exact gated_sameButKeptResults (ite_sameButKeptResults (sameButKeptResults_two (mapLoaded s pos) rfl))
  | encSample => exact gated_sameButKeptResults encodeFrame_sameButKeptResults
  | encLoad pos =>
    exact gated_sameButKeptResults
      (ite_sameButKeptResults (sameButKeptResults_one { s with encSE := pos, encPH := 0#32, res0 := pos } rfl rfl))
  | tmLoad v =>
    exact gated_sameButKeptResults
      (ite_sameButKeptResults (sameButKeptResults_one { s with tmS := v, res0 := v } rfl rfl))
  | tmAdvance | tmRevert => exact gated_sameButKeptResults (storeStep_sameButKeptResults _)
  | tmPeekNext | tmPeekPrev => exact gated_sameButKeptResults (peekStep_sameButKeptResults _)
  | tmBit b d =>
    simp only [commandBody]
    cases d.steps with
    | true => exact gated_sameButKeptResults (tmBitBody_sameButKeptResults b d)
    | false => exact sameButKeptResults_error
  | tfConfig a =>
    exact ite_sameButKeptResults (sameButKeptResults_one { s with tfAlpha := a, tf := ⟨0#32, false⟩, res0 := a } rfl rfl)
  | tfUpdate x => exact sameButKeptResults_one { s with tf := tfNext s x, res0 := (tfNext s x).s } rfl rfl
  | tfPreview x =>
    exact sameButKeptResults_one
      { s with res0 := filterPreview s.tf (signedData x) s.tfAlpha.toNat } rfl rfl

end

/-- Settles O28: the two computations differ in kept results only, and so do their ends. -/
theorem resultsAreNeverOperands : Obligations.ResultsAreNeverOperands := by
  intro i s r0 r1 r2
  have hbody : SameButKeptResults s r0 r1 r2 _ _ := commandBody_sameButKeptResults i
  rcases hbody with ⟨e, hx, hy⟩ | ⟨u, q0, q1, q2, hx, hy, h0, h1, h2⟩
  · refine ⟨_, exec_of_commandBody_error i s e hx, r0, r1, r2, ?_, ?_⟩
    · refine (exec_of_commandBody_error i _ e hy).trans ?_
      split <;> rfl
    · split <;> exact ⟨.inr ⟨rfl, rfl⟩, .inr ⟨rfl, rfl⟩, .inr ⟨rfl, rfl⟩⟩
  · exact ⟨_, exec_of_commandBody_ok i s u hx, q0, q1, q2, exec_of_commandBody_ok i _ _ hy, h0, h1, h2⟩

end Sys2Proof.Machine

/-! PROOFS of family 70_reset_and_hazards.md+other, decoder and encoder: the decaying pitch (O45), DEC_SAMPLE's
completion (O49), TRACKING (O58), the full window (O51) and the encoder's boundaries (O55). O51 follows the window bit by
bit along the steps: forward it agrees with the state from the top down, backward it collects the bits the state drops. -/

namespace Sys2Proof.Machine

open Sys2Proof.Spec

/-! ## The pitch without a crossing (R212) -/

theorem channelStep_pitch_of_not_crossing (p : ConfigRegs) (f : Nat) (c : Channel) (s : Sample)
    (hx : crossing c.side (sideStep p c s) = false) :
    (channelStep p f c s).ch.pitch =
      if p.stopTimeout.toNat ≤ counted c then filterStep c.pitch 0 p.aPitch.toNat else c.pitch := by
  rw [channelStep_none p f c s hx, noCross_ch, ← preCross_cnt_toNat p c s]
  rfl

/-- Settles O45: the counter decides between the pitch filter's step on 0 and the pitch as it was. -/
theorem stopDecayFeedsZero : Obligations.StopDecayFeedsZero := by
  intro p f c smp ha1 ha2 o hx
  have hpitch : o.ch.pitch = _ := channelStep_pitch_of_not_crossing p f c smp (by rwa [← channelStep_xing p f])
  rw [hpitch]
  refine ⟨fun hcount => ?_, fun hcount => if_neg (by omega)⟩
  rw [if_pos hcount]
  exact ⟨filterStep_init .., filterStep_toInt _ _ _ ha1 ha2 (by decide) (by decide)⟩

/-! ## DEC_SAMPLE (R240) -/

theorem word_add_one_eq_ofNat (v : Word) : v + 1#32 = BitVec.ofNat 32 (v.toNat + 1) := by
  apply BitVec.eq_of_toNat_eq
  rw [BitVec.toNat_add, BitVec.toNat_ofNat, BitVec.toNat_ofNat]

/-- Settles O49: past its gate DEC_SAMPLE stores `frameDone` of what the mapper feed returned. -/
theorem decSampleCompletesWithItsStages : Obligations.DecSampleCompletesWithItsStages := by
  refine ⟨fun s a b h => ?_, fun a b => gated_of_needsConfig _ rfl,
    fun w hopc => rejected_of_arg_or_rsv w (by rw [usesArg]; omega)⟩
  intro oa ob d
  obtain ⟨f, hfeed, hexec⟩ := exec_decSample_ready s a b h
  refine ⟨f, hfeed, ?_⟩
  rw [hexec, ← word_add_one_eq_ofNat]
  rfl

/-! ## TRACKING is earned (R245) -/

theorem satInc_ge (v : BitVec 8) : v.toNat ≤ (satInc v).toNat := by
  have hv := v.isLt
  rw [satInc_toNat]
  omega

/-- What `State.TrackingEarned` says of the sync status and the position, under the active registers `p`. -/
def Sync.Earned (p : ConfigRegs) (pos : Word) (y : Sync) : Prop :=
  y.tracking = true → p.syncLen.toNat ≤ y.run.toNat ∧ pos.toNat < p.valid.toNat ∧ y.lastMatch = true

theorem trackingEarned_iff (s : State) : s.TrackingEarned ↔ s.sync.Earned s.act s.map.s := Iff.rfl

/-- A sync update sets TRACKING only on a good bit, when RUN has reached SYNC_LEN or had reached it before. -/
theorem syncUpdate_earned (p : ConfigRegs) (y : Sync) (old pos : Word) (isMatch : Bool) (hy : y.Earned p old) :
    (syncUpdate p y pos isMatch).Earned p pos := by
  intro h
  cases hgood : isMatch && isValid p pos with
  | false => rw [syncUpdate_bad p y pos isMatch hgood] at h; cases h
  | true =>
    obtain ⟨rfl, hvalid⟩ := Bool.and_eq_true_iff.1 hgood
    rw [syncUpdate_good p y pos hvalid, Bool.or_eq_true, decide_eq_true_iff] at h
    rw [syncUpdate_good p y pos hvalid]
    refine ⟨?_, (isValid_iff p pos).1 hvalid, rfl⟩
    rcases h with hrun | htrack
    · exact hrun
    · exact (hy htrack).1.trans (satInc_ge y.run)

/-- A frame that feeds the mapper no bit leaves it as it was. -/
theorem mapperFeed_not_fed (p : ConfigRegs) (m : Mapper) (tracking : Bool) (d : Direction) (a : ChannelOut)
    (f : FeedOut) (h : mapperFeed p m tracking d a = .ok f) (hf : f.fed = false) : f.map = m := by
  rcases mapperFeed_cases p m tracking d a with ⟨_, hfeed⟩ | ⟨_, _, hfeed⟩ | ⟨_, _, hfeed⟩
  · rw [hfeed] at h; cases h; rfl
  · rw [hfeed] at h; cases h; cases hf
  · rw [hfeed] at h
    unfold feedBit at h
    split at h
    · cases h
    · split at h
      · split at h <;> cases h
        cases hf
      · cases h; cases hf

theorem frameDone_trackingEarned (s : State) (a b : Sample) (f : FeedOut) (hs : s.TrackingEarned)
    (h : frameFeed s a b = .ok f) : (frameDone s a b f).TrackingEarned := by
  rw [trackingEarned_iff] at hs
  rw [trackingEarned_iff, frameDone_sync, frameDone_act, frameDone_map]
  cases hf : f.fed with
  | false =>
    rw [syncStep_not_fed s.act s.sync f hf, mapperFeed_not_fed _ _ _ _ _ f h hf]
    exact hs
  | true =>
    rw [syncStep_fed s.act s.sync f hf]
    exact syncUpdate_earned s.act s.sync s.map.s f.map.s f.isMatch hs

/-- A state that tracks nothing has nothing to earn. -/
theorem trackingEarned_of_not_tracking (s : State) (h : s.sync.tracking = false) : s.TrackingEarned := by
  intro ht
  rw [h] at ht; cases ht

/-- What TRACKING rests on: the sync status, the position and the active registers. -/
theorem trackingEarned_congr (s t : State) (hs : s.TrackingEarned) (hsync : t.sync = s.sync) (hmap : t.map = s.map)
    (hact : t.act = s.act) : t.TrackingEarned := by
  rw [trackingEarned_iff, hsync, hmap, hact]
  exact hs

theorem decodeFrame_ok (s u : State) (a b : Sample) (h : decodeFrame s a b = .ok u) :
    ∃ f, frameFeed s a b = .ok f ∧ u = frameDone s a b f := by
  unfold decodeFrame at h
  split at h
  · next f hf => cases h; exact ⟨f, hf, rfl⟩
  · cases h

/-- A completing CONFIGURE or MAP_LOAD clears TRACKING, a DEC_SAMPLE updates it, and the other commands leave alone what
it rests on. -/
theorem commandBody_trackingEarned (i : Instr) (s u : State) (hs : s.TrackingEarned) (hu : commandBody i s = .ok u) :
    u.TrackingEarned := by
  have hw := commandBody_ok_eq i s u hu
  cases i with
  | decSample a b =>
    obtain ⟨_, _, hbody⟩ := (gated_ok ..).1 hu
    obtain ⟨f, hf, rfl⟩ := decodeFrame_ok s u a b hbody
    exact frameDone_trackingEarned s a b f hs hf
  | configure | mapLoad => exact trackingEarned_of_not_tracking u (by rw [hw]; rfl)
  | _ =>
    exact trackingEarned_congr s u hs ((congrArg State.sync hw).trans rfl) ((congrArg State.map hw).trans rfl)
      ((congrArg State.act hw).trans rfl)

theorem exec_trackingEarned (i : Instr) (s t : State) (hs : s.TrackingEarned) (h : exec i s = .next t) :
    t.TrackingEarned := by
  rcases exec_cases i s t h with ⟨u, hu, rfl⟩ | ⟨_, e, _, rfl⟩ | ⟨_, e, _, rfl⟩
  · exact commandBody_trackingEarned i s u hs hu
  · exact hs
  · exact hs

/-- Settles O58: each of the four things a step can be keeps TRACKING earned; the invariants are not needed for it. -/
theorem trackingIsEarnedAlways : Obligations.TrackingIsEarnedAlways := by
  intro s t _ hs h
  rcases step_cases s t h with ⟨_, rfl⟩ | ⟨rest, _, rfl⟩ | ⟨w, rest, i, _, _, hexec⟩ | ⟨w, rest, e, _, _, rfl⟩
  · exact hs
  · exact trackingEarned_of_not_tracking _ rfl
  · exact exec_trackingEarned i { s with inputs := rest } t hs hexec
  · exact hs

/-! ## The window and the generator (R244) -/

/-- From bit W - k up, the window holds what the state holds. -/
def WindowMatchesTop (p : ConfigRegs) (k : Nat) (st r : Word) : Prop :=
  ∀ i, p.width.toNat ≤ i + k → r.getLsbD i = st.getLsbD i

/-- Window `r` and state `x` after k reverts of `st`: the state is `st` moved up by k, the window its top k bits. -/
def WindowHoldsDropped (p : ConfigRegs) (k : Nat) (st x r : Word) : Prop :=
  (∀ i, i + k < p.width.toNat → x.getLsbD (i + k) = st.getLsbD i) ∧
  ∀ i, i < k → r.getLsbD i = st.getLsbD (p.width.toNat - k + i)

section
variable (p : ConfigRegs) (hp : p.FormatLegal)
include hp

/-- A step forward moves both down by one and puts the same bit at W - 1. -/
theorem advance_windowMatchesTop (k : Nat) (st r : Word) (g : GenStep) (hs : p.InRange st)
    (hr : r.toNat < 2 ^ p.width.toNat) (hg : advance p st = .ok g) (h : WindowMatchesTop p k st r) :
    WindowMatchesTop p (k + 1) g.next (shiftInForward p r g.fb) := by
  intro i hi
  rw [(advance_bits p st hp hs g hg).1, shiftInForward, shiftRight_insert_getLsbD p r g.fb i hp hr]
  split
  · rfl
  · exact h (i + 1) (by omega)

theorem forwardWindow_matchesTop (n k : Nat) (st r : Word) (hs : p.InRange st) (hr : r.toNat < 2 ^ p.width.toNat)
    (h : WindowMatchesTop p k st r) :
    ∃ u v, forwardWindow p n (st, r) = .ok (u, v) ∧ WindowMatchesTop p (k + n) u v := by
  induction n generalizing k st r with
  | zero => exact ⟨st, r, rfl, h⟩
  | succ n ih =>
    obtain ⟨g, hg, hgr⟩ := advance_inRange p st hp hs
    obtain ⟨u, v, hrun, huv⟩ := ih (k + 1) g.next (shiftInForward p r g.fb) hgr (shiftIn_lt p .forward r g.fb hp hr)
      (advance_windowMatchesTop p hp k st r g hs hr hg h)
    refine ⟨u, v, ?_, by rwa [Nat.add_right_comm] at huv⟩
    rw [forwardWindow, hg]
    exact hrun

/-- A step backward moves both up by one; the bit it drops from the state is the next one of `st`. -/
theorem revert_windowHoldsDropped (k : Nat) (st x r : Word) (g : GenStep) (hk : k < p.width.toNat) (hx : p.InRange x)
    (hg : revert p x = .ok g) (h : WindowHoldsDropped p k st x r) :
    WindowHoldsDropped p (k + 1) st g.next (shiftInBackward p r g.out) := by
  obtain ⟨hstate, hwindow⟩ := h
  have hout : g.out = st.getLsbD (p.width.toNat - (k + 1)) := by
    have htop : p.width.toNat - 1 = p.width.toNat - (k + 1) + k := by omega
    rw [revert_ok p x (inRange_ne_zero p x hx)] at hg
    cases hg
    dsimp only
    rw [htop, hstate _ (by omega)]
  refine ⟨fun i hi => ?_, fun i hi => ?_⟩
  · rw [(revert_bits p x hp hx g hg).1, if_neg (by omega), decide_eq_true hi, Bool.true_and, ← hstate i (by omega)]
    rfl
  · rw [shiftInBackward, shiftLeft_insert_getLsbD p r g.out i hp]
    split
    · next hi0 => subst hi0; exact hout
    · next hi0 =>
      rw [decide_eq_true (by omega), Bool.true_and, hwindow (i - 1) (by omega)]
      congr 1
      omega

theorem backwardWindow_holdsDropped (n k : Nat) (st x r : Word) (hn : k + n ≤ p.width.toNat) (hx : p.InRange x)
    (hr : r.toNat < 2 ^ p.width.toNat) (h : WindowHoldsDropped p k st x r) :
    ∃ u v, backwardWindow p n (x, r) = .ok (u, v) ∧ revertTimes p n x = .ok u ∧ v.toNat < 2 ^ p.width.toNat ∧
      WindowHoldsDropped p (k + n) st u v := by
  induction n generalizing k x r with
  | zero => exact ⟨x, r, rfl, rfl, hr, h⟩
  | succ n ih =>
    obtain ⟨g, hg, hgr⟩ := revert_inRange p x hp hx
    obtain ⟨u, v, hrun, hrevert, hv, huv⟩ := ih (k + 1) g.next (shiftInBackward p r g.out) (by omega) hgr
      (shiftIn_lt p .backward r g.out hp hr) (revert_windowHoldsDropped p hp k st x r g (by omega) hx hg h)
    refine ⟨u, v, ?_, ?_, hv, by rwa [Nat.add_right_comm] at huv⟩
    · rw [backwardWindow, hg]
      exact hrun
    · rw [revertTimes, hg]
      exact hrevert

end

/-- Settles O51: after W bits the part of the window that holds the generator's bits is the whole window. -/
theorem fullWindowIsGeneratorState : Obligations.FullWindowIsGeneratorState := by
  intro p st r hp hs hr
  constructor
  · have hstart : WindowMatchesTop p 0 st r := fun i hi => by
      rw [getLsbD_of_lt_two_pow r _ i hr hi, getLsbD_of_lt_two_pow st _ i hs.2 hi]
    obtain ⟨u, v, hrun, huv⟩ := forwardWindow_matchesTop p hp p.width.toNat 0 st r hs hr hstart
    have hfull : v = u := BitVec.eq_of_getLsbD_eq fun i _ => huv i (by omega)
    exact ⟨u, by rw [hrun, hfull]⟩
  · have hstart : WindowHoldsDropped p 0 st st r := ⟨fun _ _ => rfl, nofun⟩
    obtain ⟨u, v, hrun, hrevert, hv, _, hwindow⟩ :=
      backwardWindow_holdsDropped p hp p.width.toNat 0 st st r (by omega) hs hr hstart
    have hfull : v = st := BitVec.eq_of_getLsbD_eq fun i _ => by
      by_cases hi : i < p.width.toNat
      · rw [hwindow i (by omega)]
        congr 1
        omega
      · rw [getLsbD_of_lt_two_pow v _ i hv (by omega), getLsbD_of_lt_two_pow st _ i hs.2 (by omega)]
    exact ⟨u, by rw [hrun, hfull], hrevert⟩

/-! ## The encoder's boundaries (R285) -/

section
variable (s : State)

theorem encNextPhase_forward (hd : s.encDir = .forward) :
    (encNextPhase s).toNat = (s.encPH.toNat + encStride s) % 2 ^ 32 := by
  simp only [encNextPhase, hd, BitVec.toNat_ofNat, Nat.mod_mod]

theorem encNextPhase_backward (hd : s.encDir = .backward) :
    ((encNextPhase s).toNat : Int) = ((s.encPH.toNat : Int) - encStride s) % 2 ^ 32 := by
  have hstride := encStride_le s
  simp only [encNextPhase, hd, BitVec.toNat_ofNat]
  omega

theorem encCrosses_forward_iff (hd : s.encDir = .forward) :
    encCrosses s = true ↔ s.encPH.toNat % 2 ^ 31 + encStride s ≥ 2 ^ 31 := by
  simp only [encCrosses, hd, decide_eq_true_iff]

theorem encCrosses_backward_iff (hd : s.encDir = .backward) :
    encCrosses s = true ↔ s.encPH.toNat % 2 ^ 31 < encStride s := by
  simp only [encCrosses, hd, decide_eq_true_iff]

theorem encNextState_of_not_crosses (h : ¬ encCrosses s = true) : encNextState s = s.encSE := by
  unfold encNextState
  split
  · rfl
  · exact if_neg h
  · exact if_neg h

theorem encNextState_forward (hp : s.act.FormatLegal) (hr : s.act.InRange s.encSE) (hd : s.encDir = .forward)
    (h : encCrosses s = true) : (encNextState s).toNat = advanceNext s.act s.encSE := by
  simp only [encNextState, hd, if_pos h]
  exact Nat.mod_eq_of_lt (advanceNext_lt s.act s.encSE hp hr)

theorem encNextState_backward (hp : s.act.FormatLegal) (hd : s.encDir = .backward) (h : encCrosses s = true) :
    (encNextState s).toNat = revertNext s.act s.encSE := by
  simp only [encNextState, hd, if_pos h]
  exact Nat.mod_eq_of_lt (revertNext_lt s.act s.encSE hp)

theorem exec_encSample_moves (h : Ready s) :
    ∃ t, exec .encSample s = .next t ∧ t.encPH = encNextPhase s ∧ t.encSE = encNextState s := by
  obtain ⟨hexec, _⟩ := encSampleEmitsFrameAndMoves
  exact ⟨_, hexec s h, rfl, rfl⟩

end

/-- Settles O55: the increment is at most a quarter cycle, so the phase passes one multiple of 2^31 or none, and it
passes one exactly where the machine's test of its remainder says so. -/
theorem encoderStepsOncePerBoundary : Obligations.EncoderStepsOncePerBoundary := by
  intro s h
  obtain ⟨t, hexec, hphase, hstate⟩ := exec_encSample_moves s h
  obtain ⟨_, hr, _⟩ := ready_sessions s h
  obtain ⟨hp, _⟩ := ready_legal s h
  have hstride := encStride_le s
  refine ⟨t, encStride s, hexec, hstride, fun hd => ?_, fun hd => ?_, fun hd => ?_⟩
  · rw [hphase, hstate, encNextPhase, encNextState, hd]
    exact ⟨rfl, rfl⟩
  · have hcross := encCrosses_forward_iff s hd
    rw [hphase, hstate]
    refine ⟨encNextPhase_forward s hd, ?_⟩
    by_cases hx : encCrosses s = true
    · have hreach := hcross.1 hx
      exact .inr ⟨by omega, encNextState_forward s hp hr hd hx⟩
    · have hshort := mt hcross.2 hx
      exact .inl ⟨by omega, encNextState_of_not_crosses s hx⟩
  · have hcross := encCrosses_backward_iff s hd
    rw [hphase, hstate]
    refine ⟨encNextPhase_backward s hd, ?_⟩
    by_cases hx : encCrosses s = true
    · have hleave := hcross.1 hx
      exact .inr ⟨by omega, encNextState_backward s hp hd hx⟩
    · have hstay := mt hcross.2 hx
      exact .inl ⟨by omega, encNextState_of_not_crosses s hx⟩

end Sys2Proof.Machine
